-- ==== Sys2Proof/Word.lean ====
section
/-! DEFINITION. The words the manual treats as bits: bytes of frames, instants of the local clock, web positions, reel ids and sequence numbers. -/

namespace Sys2Proof

/-- One byte of a frame; also a station number (00_scope.md, Numbering). -/
abbrev Byte := BitVec 8

/-- An instant of the 32-bit microsecond local clock, or of the line master's line time; both wrap at 2^32 (R1). -/
abbrev Time := BitVec 32

/-- A web position in 0.1 mm, 32-bit, wrapping (R1). -/
abbrev Pos := BitVec 32

/-- A reel id, 32-bit (R12). -/
abbrev ReelId := BitVec 32

/-- A splice log sequence number, 16-bit, counted modulo 65,536 (R130). -/
abbrev SeqNo := BitVec 16

end Sys2Proof
end

