-- ==== Sys2Proof/Syntax.lean ====
section
/-! DEFINITION. The commands of the part: one constructor of Instr per row of spec/opcode_table.json, with the operands a command brings from outside. -/

namespace Sys2Proof

/-- A stand: `0` is the manual's stand 1, `5` its stand 6 (00_scope.md, Numbering). -/
abbrev StandNo := Fin 6

/-- A web slot, 0 to 5. -/
abbrev SlotNo := Fin 6

/-- The two pulse inputs of a stand (R42). -/
inductive Channel where
  | run
  | fresh
  deriving DecidableEq, Repr

/-- The class bit of a frame: 0 urgent, 1 normal (R141). -/
inductive FrameClass where
  | urgent
  | normal
  deriving DecidableEq, Repr

/-- The header cells of a frame as the port read them, without the header check (R141). -/
structure Header where
  cls : FrameClass
  sender : Byte
  target : Byte
  verb : Byte
  length : Byte
  deriving DecidableEq, Repr

/-- A station that sends its start mark in the same bit time as the part: the class and sender of its frame (R145). -/
structure Contestant where
  cls : FrameClass
  sender : Byte
  deriving DecidableEq, Repr

/-- What the part reads back while sending the rest of a frame whose contest it has won (R147): a bit that differs from
the bit sent, its position counted from the class bit as 0, with the level of the header slot if it was passed; or the
levels of the two slots at the frame's end (`true` is dominant). -/
inductive LineEnd where
  | bitError (headerDominant : Bool) (position : Nat)
  | ended (headerDominant payloadDominant : Bool)
  deriving DecidableEq, Repr

/-- The two parts of a stand that act on an accepted line sample, each as a matter of its own (R35). -/
inductive SampleUser where
  | loop
  | context
  deriving DecidableEq, Repr

/-- One matter of an accepted line sample: a stand's loop or a stand's context. -/
structure Matter where
  stand : StandNo
  user : SampleUser
  deriving DecidableEq, Repr

/-- The levels of the pins when power is applied: the eight strap pins, the guard inputs (`true` is open) and the
pulse inputs (`true` is high) of stands 1 to 6 (R154, R124, R42). -/
structure Pins where
  straps : Byte
  guardOpen : Vector Bool 6
  runHigh : Vector Bool 6
  freshHigh : Vector Bool 6
  deriving DecidableEq, Repr

/-- The local time of an event on the line, with the levels read, one a bit time and `true` recessive, since the port's
event before this one, up to and with the bit time that makes the event (R143, R144, R150; log entry 17). -/
structure LineMoment where
  t : Time
  line : List Bool
  deriving DecidableEq, Repr

/-- The local time of the part's start mark, with the stations whose start marks fall in the same bit time (R145; log
entry 17). -/
structure StartMoment where
  t : Time
  rivals : List Contestant
  deriving DecidableEq, Repr

/-- The commands. `t` is the local time at which the event is taken (log entry 1). `order` names, first to last, the
stands (or matters) that act on a shared event; those it does not name follow in the order 1 to 6 (log entry 5). A
request row carries no request bytes: the handler takes the frame at the head of the receive queue (log entry 3). -/
inductive Instr where
  /-- POWER_ON (R155). -/
  | powerOn (pins : Pins)
  /-- ASK_STATUS (R172). -/
  | askStatus (t : Time)
  /-- ASK_STAND (R139). -/
  | askStand (t : Time)
  /-- ASK_GRADE (R24). -/
  | askGrade (t : Time)
  /-- ASK_QUEUE (R24). -/
  | askQueue (t : Time)
  /-- ASK_LOG (R131). -/
  | askLog (t : Time)
  /-- ASK_LINE (R24). -/
  | askLine (t : Time)
  /-- PUT_GRADE (R4). -/
  | putGrade (t : Time)
  /-- PUT_STAND (R7). -/
  | putStand (t : Time)
  /-- PUT_LINE (R10). -/
  | putLine (t : Time)
  /-- SET_GROUPS (R11). -/
  | setGroups (t : Time)
  /-- ADD_REEL (R15). -/
  | addReel (t : Time)
  /-- DROP_REEL (R16). -/
  | dropReel (t : Time)
  /-- MARK_READY (R17). -/
  | markReady (t : Time)
  /-- SET_RUNNING (R19). -/
  | setRunning (t : Time)
  /-- SET_MODE_RUN (R163). -/
  | setModeRun (t : Time) (order : List StandNo)
  /-- SET_MODE_HOLD (R162). -/
  | setModeHold (t : Time) (order : List StandNo)
  /-- SET_MODE_CONFIG (R165). -/
  | setModeConfig (t : Time) (order : List StandNo)
  /-- STAND_ORDER_AUTO_ON (R63). -/
  | standOrderAutoOn (t : Time)
  /-- STAND_ORDER_AUTO_OFF (R63). -/
  | standOrderAutoOff (t : Time)
  /-- STAND_ORDER_SPLICE_NOW (R68). -/
  | standOrderSpliceNow (t : Time)
  /-- STAND_ORDER_ABORT (R82). -/
  | standOrderAbort (t : Time)
  /-- STAND_ORDER_MANUAL_TRACK_ON (R100). -/
  | standOrderManualTrackOn (t : Time)
  /-- STAND_ORDER_MANUAL_TRACK_OFF (R100). -/
  | standOrderManualTrackOff (t : Time)
  /-- TAKE_CONTROL (R167). -/
  | takeControl (t : Time)
  /-- GIVE_CONTROL (R168). -/
  | giveControl (t : Time)
  /-- CLEAR_LATCH_INTERLOCK (R123). -/
  | clearLatchInterlock (t : Time)
  /-- CLEAR_LATCH_EVENTS (R136). -/
  | clearLatchEvents (t : Time)
  /-- RESTART (R171). -/
  | restart (t : Time)
  /-- UNKNOWN_VERB (R159). -/
  | unknownVerb (t : Time)
  /-- PART_VERB_DISCARDED (R159). -/
  | partVerbDiscarded (t : Time)
  /-- LINE_HOLD (R164): the payload of the frame being read has ended, with the check byte read. -/
  | lineHold (t : Time) (payload : List Byte) (check : Byte) (order : List StandNo)
  /-- LINE_SAMPLE (R28): the payload of the frame being read has ended, with the check byte read. -/
  | lineSample (t : Time) (payload : List Byte) (check : Byte) (order : List Matter)
  /-- COASTING_EXPIRY (R36). -/
  | coastingExpiry (t : Time) (slot : SlotNo) (order : List StandNo)
  /-- LOST_EXPIRY (R37). -/
  | lostExpiry (t : Time) (slot : SlotNo) (order : List StandNo)
  /-- WINDOW_CLOSE (R38). -/
  | windowClose (t : Time) (slot : SlotNo) (order : List StandNo)
  /-- PULSE_INPUT_CHANGE (R43): the input now has this level (`true` is high). -/
  | pulseInputChange (t : Time) (stand : StandNo) (ch : Channel) (high : Bool)
  /-- CHANGE_ACCEPTED (R43): `loopFirst` says whether, at a tab mark, the speed-match loop's matter is taken before the
  context's (R70). -/
  | changeAccepted (t : Time) (stand : StandNo) (ch : Channel) (loopFirst : Bool)
  /-- STOPPED_TIMER_EXPIRY (R45). -/
  | stoppedTimerExpiry (t : Time) (stand : StandNo) (ch : Channel)
  /-- CONVERSION_COMPLETION (R55): the code of the channel whose turn it is in the round. -/
  | conversionCompletion (t : Time) (code : BitVec 12)
  /-- GUARD_OPEN (R120). -/
  | guardOpen (t : Time) (stand : StandNo)
  /-- GUARD_SAFE (R120). -/
  | guardSafe (t : Time) (stand : StandNo)
  /-- MISSING_TAB_EXPIRY (R72). -/
  | missingTabExpiry (t : Time) (stand : StandNo)
  /-- PASTER_TIMER_EXPIRY (R76). -/
  | pasterTimerExpiry (t : Time) (stand : StandNo)
  /-- KNIFE_TIMER_EXPIRY (R80). -/
  | knifeTimerExpiry (t : Time) (stand : StandNo)
  /-- CONFIRM_TIMER_EXPIRY (R81). -/
  | confirmTimerExpiry (t : Time) (stand : StandNo)
  /-- STOPPING_TIMER_EXPIRY (R85). -/
  | stoppingTimerExpiry (t : Time) (stand : StandNo)
  /-- PASTE_END_EXPIRY (R115). -/
  | pasteEndExpiry (t : Time) (stand : StandNo)
  /-- KNIFE_END_EXPIRY (R116). -/
  | knifeEndExpiry (t : Time) (stand : StandNo)
  /-- BRAKE_DELAY_EXPIRY (R118). -/
  | brakeDelayExpiry (t : Time) (stand : StandNo)
  /-- BRAKE_HOLD_EXPIRY (R118). -/
  | brakeHoldExpiry (t : Time) (stand : StandNo)
  /-- HORN_HALF_PERIOD (R125). -/
  | hornHalfPeriod (t : Time) (stand : StandNo)
  /-- PREWARN_PHASE (R126). -/
  | prewarnPhase (t : Time) (stand : StandNo)
  /-- LOCK_EXPIRY (R170). -/
  | lockExpiry (t : Time) (stand : StandNo)
  /-- REQUEST_FRAME (R152): the payload of the frame being read has ended, with the check byte read. -/
  | requestFrame (t : Time) (payload : List Byte) (check : Byte)
  /-- TRANSMIT_BEGIN (R145). -/
  | transmitBegin (moment : StartMoment)
  /-- LOST_ARBITRATION (R145). -/
  | lostArbitration (t : Time)
  /-- TRANSMIT_OUTCOME (R148). -/
  | transmitOutcome (t : Time) (lineEnd : LineEnd)
  /-- BUS_IDLE (R143). -/
  | busIdle (moment : LineMoment)
  /-- STUCK (R144). -/
  | stuck (moment : LineMoment) (order : List StandNo)
  /-- START_MARK_READ (R143). -/
  | startMarkRead (t : Time)
  /-- HEADER_CHECK_END (R151): the header cells read and the header check byte read. -/
  | headerCheckEnd (t : Time) (header : Header) (check : Byte)
  /-- RECEPTION_ABANDONED (R150). -/
  | receptionAbandoned (moment : LineMoment)
  deriving DecidableEq, Repr

end Sys2Proof
end

