-- ==== Sys2Proof/Decode.lean ====
section
/-! DEFINITION. The host's decoder over the opcode table's bits: no row of the table gives a bit, so no word spells a command. -/

namespace Sys2Proof

/-- The command that the bits of a table row spell. Every row of spec/opcode_table.json has an empty list of fields and
no fixed bits, so no word spells a command. -/
def decodeTableWord (_nbits _w : Nat) : Option Instr := none

end Sys2Proof
end

