-- ==== Sys2Proof/Config.lean ====
section
/-! DEFINITION. The fixed numbers of the part that the rules name, and the free values: what the manual does not state. -/

namespace Sys2Proof

namespace Config

/-- FREE VALUE (log entry 9). The quotient of a division by zero, as a function of the dividend. The manual states none;
every division it gives has a divisor that its ranges keep above zero in the states a run reaches. -/
opaque divByZero : Nat → Nat

/-- FREE VALUE (log entry 11). The holder byte of a TAKE CONTROL or GIVE CONTROL reply whose stand number is none of
1 to 6, as a function of the stand byte. -/
opaque holderOfNoStand : Byte → Byte

/-- FREE VALUE (log entry 11). The stand byte of a TAKE CONTROL or GIVE CONTROL reply when the payload held none. -/
opaque absentStand : Byte

/-- Capacity of the transmit queue (R146). -/
def txCapacity : Nat := 12

/-- Capacity of the receive queue (R151). -/
def rxCapacity : Nat := 16

/-- The critical level of the receive queue (R151). -/
def rxCritical : Nat := 12

/-- Capacity of a reel queue (R13). -/
def reelCapacity : Nat := 3

/-- Capacity of the splice log (R130). -/
def logCapacity : Nat := 48

/-- Silence after an accepted sample until COASTING, in µs (R36). -/
def coastingDelay : Nat := 30000

/-- Silence after a sample taken until LOST, in µs (R37). -/
def lostDelay : Nat := 250000

/-- Length of a sample window, in µs (R38). -/
def windowLength : Nat := 100000

/-- The longest valid period and the stopped timer's delay, in µs (R44, R45). -/
def stoppedDelay : Nat := 8000000

/-- The shortest valid period, in µs (R44). -/
def shortestPeriod : Nat := 20000

/-- The confirm window, in µs (R80). -/
def confirmDelay : Nat := 2000000

/-- The limit of STOPPING, in µs (R84). -/
def stoppingDelay : Nat := 15000000

/-- The expiry of a held control lock, in µs (R170). -/
def lockDelay : Nat := 5000000

/-- The length of a PREWARN phase, in µs (R126). -/
def prewarnPhaseLength : Nat := 500000

end Config

end Sys2Proof
end

