-- ==== Sys2Proof/Machine/State.lean ====
section
/-! DEFINITION. The state of the part as plain data, block by block as the manual lists it, its reasons to stop, and the state right after power-on. -/

namespace Sys2Proof

namespace Machine

/-! ### Table store (chapter 1) -/

/-- A grade record: the twelve fields of R3. -/
structure GradeRecord where
  caliper : Nat
  core : Nat
  runoutMargin : Nat
  spliceDiameter : Nat
  nominal : Nat
  defaultTab : Nat
  tailLength : Nat
  runUpRate : Nat
  settleTime : Nat
  lockBand : Nat
  lockCount : Nat
  correctionLimit : Nat
  deriving DecidableEq, Repr

/-- The record whose every field is 0: what ASK GRADE shows of an undefined slot (R24). -/
def GradeRecord.zero : GradeRecord := ⟨0, 0, 0, 0, 0, 0, 0, 0, 0, 0, 0, 0⟩

/-- A stand record: the fields of R6, in their order. -/
structure StandRecord where
  enabled : Bool
  webSlot : SlotNo
  driveStation : Byte
  hornPitch : Fin 4
  sensorToNip : Nat
  pasterLatency : Nat
  knifeLatency : Nat
  knifePath : Nat
  pasteHold : Nat
  knifePulse : Nat
  brakeDelay : Nat
  brakeHold : Nat
  filterTime : Nat
  sensorZero : Nat
  sensorSlope : Int
  dancerLow : Nat
  dancerHigh : Nat
  leadMargin : Nat
  warnTime : Nat
  deriving DecidableEq, Repr

/-- The power-on stand record: every field 0, enabled no (R6). -/
def StandRecord.zero : StandRecord := ⟨false, 0, 0, 0, 0, 0, 0, 0, 0, 0, 0, 0, 0, 0, 0, 0, 0, 0, 0⟩

/-- The line settings (R9). -/
structure LineSettings where
  lineMaster : Byte
  reportStation : Byte
  minSamples : Nat
  rateLimit : Nat
  deriving DecidableEq, Repr

/-- A reel record (R12). -/
structure ReelRecord where
  id : ReelId
  grade : Fin 32
  diameter : Option Nat
  tab : Option Nat
  ready : Bool
  deriving DecidableEq, Repr

/-- A running reel record (R18). -/
structure RunningReel where
  id : ReelId
  grade : Fin 32
  deriving DecidableEq, Repr

/-! ### Web trackers (chapter 2) -/

/-- The state of a tracker (R25). -/
inductive TrackState where
  | none
  | acquiring
  | tracking
  | coasting
  | lost
  deriving DecidableEq, Repr

/-- A web tracker (R25). A timer is its expiry time, or `none` when disarmed. -/
structure Tracker where
  state : TrackState
  lastNumber : Byte
  lastLineTime : Time
  anchor : Pos
  anchorTime : Time
  v : Nat
  rejectRun : Nat
  windowCount : Nat
  lowWindow : Bool
  coastingAt : Option Time
  lostAt : Option Time
  windowAt : Option Time
  deriving DecidableEq, Repr

/-- The tracker at power-on, at RESTART and whenever it is sent to NONE (R25). -/
def Tracker.start : Tracker := ⟨.none, 0, 0, 0, 0, 0, 0, 0, false, Option.none, Option.none, Option.none⟩

/-! ### Reel sensing (chapter 3) -/

/-- The state of a pulse channel (R42). -/
inductive ChannelState where
  | stopped
  | starting
  | turning
  deriving DecidableEq, Repr

/-- A pending change of a pulse input: when the input began to differ, and the filter time in force then (R43). -/
structure PendingChange where
  since : Time
  filter : Nat
  deriving DecidableEq, Repr

/-- A pulse channel (R42), with the level of its input pin (`true` is high). -/
structure PulseChannel where
  input : Bool
  accepted : Bool
  change : Option PendingChange
  state : ChannelState
  lastMark : Option Time
  lastPeriod : Option Nat
  stoppedAt : Option Time
  glitches : Nat
  rejectRun : Nat
  validRun : Nat
  fault : Bool
  deriving DecidableEq, Repr

/-- A pulse channel at power-on or RESTART with its input at this level: the level is accepted without a mark (R42). -/
def PulseChannel.start (level : Bool) : PulseChannel :=
  ⟨level, level, Option.none, .stopped, Option.none, Option.none, Option.none, 0, 0, 0, false⟩

/-- The record of a dancer channel, analog channels 1 to 6 (R54). -/
structure DancerChannel where
  code : BitVec 12
  valid : Bool
  excursionRun : Nat
  deriving DecidableEq, Repr

/-- The record of a diameter-sensor channel, analog channels 7 to 12 (R54). -/
structure SensorChannel where
  code : BitVec 12
  valid : Bool
  diameter : Nat
  deriving DecidableEq, Repr

/-- Where D_fresh came from (R53). -/
inductive FreshSource where
  | record
  | sensor
  | nominal
  deriving DecidableEq, Repr

/-! ### Splice context (chapter 4) -/

/-- The eleven states of a splice context (section 4.1). -/
inductive CtxState where
  | off
  | idle
  | noReel
  | watch
  | runUp
  | matched
  | fireWait
  | fireSet
  | pasting
  | cut
  | stopping
  deriving DecidableEq, Repr

/-- The causes of an abort (R83). -/
inductive AbortCause where
  | order
  | hold
  | trackLost
  | speedLow
  | tension
  | driveFault
  | noTab
  | sensorFault
  | interlock
  | runout
  deriving DecidableEq, Repr

/-- A splice context (R60). -/
structure Context where
  state : CtxState
  auto : Bool
  early : Bool
  prewarn : Bool
  excursion : Bool
  cause : Option AbortCause
  vFire : Nat
  dRunFire : Nat
  eFire : Int
  joint : Pos
  tailLong : Bool
  tailShort : Bool
  missingTabAt : Option Time
  confirmAt : Option Time
  stoppingAt : Option Time
  deriving DecidableEq, Repr

/-- A context at its power-on values (R60). -/
def Context.start : Context :=
  ⟨.off, false, false, false, false, Option.none, 0, 0, 0, 0, false, false, Option.none, Option.none, Option.none⟩

/-! ### Speed-match loop (chapter 5) -/

/-- The activity of a loop (R93). -/
inductive Activity where
  | stopped
  | running
  | frozen
  deriving DecidableEq, Repr

/-- The mode of a loop (R93). -/
inductive LoopMode where
  | acquire
  | track
  deriving DecidableEq, Repr

/-- A speed-match loop (R93). Its pending drive order stands in the port's list of waiting drive orders. -/
structure Loop where
  activity : Activity
  mode : LoopMode
  correction : Int
  reference : Nat
  lockCount : Nat
  locked : Bool
  manual : Bool
  noAckRun : Nat
  deriving DecidableEq, Repr

/-- A loop at its power-on and RESTART values (R93). -/
def Loop.start : Loop := ⟨.stopped, .acquire, 0, 0, 0, false, false, 0⟩

/-! ### Output unit (chapter 6) -/

/-- The horn's patterns (R126). -/
inductive HornPattern where
  | off
  | prewarn
  | continuous
  deriving DecidableEq, Repr

/-- The horn generator: pattern, pitch in force, whether the tone sounds, the next toggle and the end of the phase
(R125, R126), and the HORN line. -/
structure Horn where
  pattern : HornPattern
  pitch : Fin 4
  sounding : Bool
  halfAt : Option Time
  phaseAt : Option Time
  line : Bool
  deriving DecidableEq, Repr

/-- The generator at power-on and RESTART: OFF (R107). The pitch in force and the phase before any start are a DESIGN
CHOICE (log entry 8). -/
def Horn.start : Horn := ⟨.off, 0, false, Option.none, Option.none, false⟩

/-- An output unit (R107), with the level of its guard input pin. -/
structure Output where
  pasterAt : Option Time
  knifeAt : Option Time
  pasteEndAt : Option Time
  knifeEndAt : Option Time
  brakeDelayAt : Option Time
  brakeHoldAt : Option Time
  paste : Bool
  knife : Bool
  brake : Bool
  horn : Horn
  latch : Bool
  guardOpen : Bool
  deriving DecidableEq, Repr

/-- The output unit at power-on and RESTART with the guard input at this level (R107, R124). -/
def Output.start (guardOpen : Bool) : Output :=
  ⟨Option.none, Option.none, Option.none, Option.none, Option.none, Option.none, false, false, false, Horn.start,
    guardOpen, guardOpen⟩

/-! ### Events, outcomes and the splice log (chapter 7) -/

/-- The sixteen event kinds, in the order of their codes (R135, section 10.5). -/
inductive EventKind where
  | prewarn
  | runUpStart
  | locked
  | fired
  | spliced
  | aborted
  | runout
  | interlock
  | sensorFault
  | noise
  | trackLost
  | driveFault
  | tailLong
  | tailShort
  | breakSuspect
  | samplesLow
  deriving DecidableEq, Repr

/-- A latched event set: bit k is the mark of event kind k (section 10.5). -/
abbrev EventSet := BitVec 16

/-- The outcomes of a splice record (R129). -/
inductive SpliceOutcome where
  | spliced
  | aborted
  | runout
  | failedInterlock
  | breakSuspect
  deriving DecidableEq, Repr

/-- A splice record (R129). -/
structure SpliceRecord where
  seq : SeqNo
  stand : StandNo
  time : Time
  outcome : SpliceOutcome
  cause : Option AbortCause
  early : Bool
  tailLong : Bool
  tailShort : Bool
  noticeUnacked : Bool
  source : FreshSource
  expiring : ReelId
  fresh : ReelId
  v : Nat
  dRun : Nat
  joint : Pos
  e : Int
  deriving DecidableEq, Repr

/-- A splice notice: its target and what it carries (R132). -/
structure Notice where
  stand : StandNo
  target : Byte
  seq : SeqNo
  joint : Pos
  v : Nat
  fresh : ReelId
  outcome : SpliceOutcome
  deriving DecidableEq, Repr

/-! ### Control locks and the part mode (chapter 9) -/

/-- A held control lock: its holder and its expiry (R166). -/
structure ControlLock where
  holder : Byte
  expiry : Time
  deriving DecidableEq, Repr

/-- The part mode (R161). -/
inductive Mode where
  | config
  | run
  | hold
  deriving DecidableEq, Repr

/-- The results of a reply, in the order of their codes (section 10.5). -/
inductive Result where
  | accepted
  | wrongMode
  | wrongState
  | locked
  | badValue
  | inUse
  | duplicate
  | full
  | empty
  | gap
  | tooLate
  | unknownVerb
  deriving DecidableEq, Repr

/-! ### A stand -/

/-- Everything the part holds for one stand. -/
structure Stand where
  record : StandRecord
  queue : List ReelRecord
  running : Option RunningReel
  dRun : Nat
  measured : Bool
  runoutFired : Bool
  runCh : PulseChannel
  freshCh : PulseChannel
  vFresh : Nat
  dFresh : Nat
  source : FreshSource
  dancer : DancerChannel
  sensor : SensorChannel
  ctx : Context
  loop : Loop
  out : Output
  events : EventSet
  lock : Option ControlLock
  deriving DecidableEq, Repr

/-- A stand at power-on with its pins at these levels. -/
def Stand.start (guardOpen runHigh freshHigh : Bool) : Stand where
  record := StandRecord.zero
  queue := []
  running := Option.none
  dRun := 0
  measured := false
  runoutFired := false
  runCh := PulseChannel.start runHigh
  freshCh := PulseChannel.start freshHigh
  vFresh := 0
  dFresh := 0
  source := .nominal
  dancer := ⟨0, false, 0⟩
  sensor := ⟨0, false, 0⟩
  ctx := Context.start
  loop := Loop.start
  out := Output.start guardOpen
  events := 0
  lock := Option.none

/-! ### Quire port (chapter 8) -/

/-- A frame: its header and payload; the length is the payload's (R141, R152). -/
structure Frame where
  cls : FrameClass
  sender : Byte
  target : Byte
  verb : Byte
  payload : List Byte
  deriving DecidableEq, Repr

/-- The bus state (R143). -/
inductive BusState where
  | idle
  | busy
  | stuck
  deriving DecidableEq, Repr

/-- The port's counts of the bit times that end with the last one read: the dominant run of R144, and the count of
consecutive recessive bit times of R143. -/
structure LineRuns where
  dominant : Nat
  recessive : Nat
  deriving DecidableEq, Repr

/-- The frame that the part has on the line (R145): the frame, the levels that the contest over its class and sender bits
puts on the line, and whether the part has won the contest. -/
structure Sending where
  frame : Frame
  contest : List Bool
  won : Bool
  deriving DecidableEq, Repr

/-- What the port is reading: nothing it follows, a header, a request frame (with or without a receive queue
reservation), or an on-arrival frame (R150 to R153). -/
inductive Reading where
  | none
  | header
  | request (h : Header) (reserved : Bool)
  | onArrival (h : Header)
  deriving DecidableEq, Repr

/-- The content of a transmit queue entry; it also names the block that placed it (R146, R148). -/
inductive TxBody where
  | reference (stand : StandNo) (speed : Nat)
  | handover (stand : StandNo) (speed : Nat)
  | release (stand : StandNo)
  | notice (n : Notice)
  | report (stand : StandNo) (state : CtxState) (events : EventSet)
  | reply (verb : Byte) (result : Result) (data : List Byte)
  deriving DecidableEq, Repr

/-- A transmit queue entry. Its age is its place in the queue, oldest first (R146). `dead` marks a REFERENCE whose loop
has stopped or been reset since it was placed (R101, R105). -/
structure TxEntry where
  cls : FrameClass
  target : Byte
  body : TxBody
  begun : Bool
  dead : Bool
  deriving DecidableEq, Repr

/-- The drive orders that can wait for a slot (R104). -/
inductive DriveKind where
  | handover
  | release
  deriving DecidableEq, Repr

/-- A stand's pending drive order (R104). -/
structure PendingDrive where
  stand : StandNo
  kind : DriveKind
  deriving DecidableEq, Repr

/-- The Quire port (R155). The three lists of waiting parties are in the order in which they began to wait (R149);
a stand's pending drive order (R104), pending notice (R133) and report-owed mark (R138) are its place in them.
`sending` is the frame the part has on the line, its contest included. `headerAck` and `payloadAck` say whether the part drove the
acknowledge slots of the frame last read. -/
structure Port where
  straps : Byte
  station : Byte
  groups : List Byte
  bus : BusState
  runs : LineRuns
  tx : List TxEntry
  rx : List Frame
  reading : Reading
  sending : Option Sending
  headerAck : Bool
  payloadAck : Bool
  handlerSlot : Bool
  waitingDrives : List PendingDrive
  waitingNotices : List Notice
  owedReports : List StandNo
  deriving DecidableEq, Repr

/-- The station number that a strapped value gives (R154). -/
def stationOfStraps (straps : Byte) : Byte :=
  if 1 ≤ straps.toNat ∧ straps.toNat ≤ 239 then straps else 239

/-- The port at power-on with these straps (R155). -/
def Port.start (straps : Byte) : Port where
  straps := straps
  station := stationOfStraps straps
  groups := []
  bus := .busy
  runs := ⟨0, 0⟩
  tx := []
  rx := []
  reading := .none
  sending := Option.none
  headerAck := false
  payloadAck := false
  handlerSlot := false
  waitingDrives := []
  waitingNotices := []
  owedReports := []

/-! ### The part -/

/-- The whole state of the part, and the queue of the commands that are waiting. -/
structure State where
  clock : Time
  mode : Mode
  grades : Vector (Option GradeRecord) 32
  line : LineSettings
  stands : Vector Stand 6
  trackers : Vector Tracker 6
  scanNext : Fin 12
  log : List SpliceRecord
  nextSeq : SeqNo
  port : Port
  pending : List Instr
  deriving DecidableEq, Repr

/-- The faults of the part: none. No rule of the manual stops it. -/
inductive Fault where
  deriving DecidableEq, Repr

/-- The reasons to refuse a command. -/
inductive Refusal where
  /-- Raised by an arm of exec whose command has no meaning yet; safe, since nothing can be proved of its effect. No arm
  raises it now. -/
  | notModelled (mnemonic : String)
  deriving DecidableEq, Repr

/-- The outcome of a command of the part. -/
abbrev StepOutcome := Host.Outcome State Fault Refusal

/-- The part right after power-on (R155 and the rules that own each block), with the strap pins at 0, every guard input
safe and every pulse input low (DESIGN CHOICE, log entry 7), and no command waiting. -/
def State.reset : State where
  clock := 0
  mode := .config
  grades := Vector.replicate 32 Option.none
  line := ⟨0, 0, 3, 3000⟩
  stands := Vector.replicate 6 (Stand.start false false false)
  trackers := Vector.replicate 6 Tracker.start
  scanNext := 0
  log := []
  nextSeq := 0
  port := Port.start 0
  pending := []

end Machine

end Sys2Proof
end

