-- ==== Sys2Proof/Machine/Flags.lean ====
section
/-! DEFINITION. The marks, the codes of section 10.5, the groups of context states and the latched event set. -/

namespace Sys2Proof

namespace Machine

/-- The code of an event kind, and its bit in a latched event set (section 10.5). -/
def EventKind.code : EventKind → Nat
  | .prewarn => 0
  | .runUpStart => 1
  | .locked => 2
  | .fired => 3
  | .spliced => 4
  | .aborted => 5
  | .runout => 6
  | .interlock => 7
  | .sensorFault => 8
  | .noise => 9
  | .trackLost => 10
  | .driveFault => 11
  | .tailLong => 12
  | .tailShort => 13
  | .breakSuspect => 14
  | .samplesLow => 15

/-- The mark of a kind in an event set (R135). -/
def hasEvent (e : EventSet) (k : EventKind) : Bool := e.getLsbD k.code

/-- An event set with the mark of a kind set (R135). -/
def withEvent (e : EventSet) (k : EventKind) : EventSet := e ||| BitVec.twoPow 16 k.code

/-- An event set with the marks of these kind codes cleared (R136). -/
def clearEvents (e : EventSet) (codes : List Nat) : EventSet :=
  codes.foldl (fun x k => x &&& ~~~ BitVec.twoPow 16 k) e

/-- The code of a context state (section 10.5). -/
def CtxState.code : CtxState → Nat
  | .off => 0
  | .idle => 1
  | .noReel => 2
  | .watch => 3
  | .runUp => 4
  | .matched => 5
  | .fireWait => 6
  | .fireSet => 7
  | .pasting => 8
  | .cut => 9
  | .stopping => 10

/-- The resting states: OFF, IDLE, NO_REEL, WATCH (section 4.1). -/
def CtxState.resting : CtxState → Bool
  | .off | .idle | .noReel | .watch => true
  | .runUp | .matched | .fireWait | .fireSet | .pasting | .cut | .stopping => false

/-- The states of a splice before fire: RUNUP, MATCHED, FIRE_WAIT, FIRE_SET (section 4.1). -/
def CtxState.beforeFire : CtxState → Bool
  | .runUp | .matched | .fireWait | .fireSet => true
  | .off | .idle | .noReel | .watch | .pasting | .cut | .stopping => false

/-- The states of a splice past fire: PASTING, CUT (section 4.1). -/
def CtxState.pastFire : CtxState → Bool
  | .pasting | .cut => true
  | .off | .idle | .noReel | .watch | .runUp | .matched | .fireWait | .fireSet | .stopping => false

/-- RUNUP through CUT, where a splice's records are held fixed (R5, R13). -/
def CtxState.splicing (c : CtxState) : Bool := c.beforeFire || c.pastFire

/-- The code of a tracker state (section 10.5). -/
def TrackState.code : TrackState → Nat
  | .none => 0
  | .acquiring => 1
  | .tracking => 2
  | .coasting => 3
  | .lost => 4

/-- The code of an outcome (section 10.5). -/
def SpliceOutcome.code : SpliceOutcome → Nat
  | .spliced => 1
  | .aborted => 2
  | .runout => 3
  | .failedInterlock => 4
  | .breakSuspect => 5

/-- The code of an abort cause (section 10.5). -/
def AbortCause.code : AbortCause → Nat
  | .order => 1
  | .hold => 2
  | .trackLost => 3
  | .speedLow => 4
  | .tension => 5
  | .driveFault => 6
  | .noTab => 7
  | .sensorFault => 8
  | .interlock => 9
  | .runout => 10

/-- The code of an abort cause or of none (section 10.5). -/
def causeCode : Option AbortCause → Nat
  | none => 0
  | some c => c.code

/-- The code of a D_FRESH_SOURCE (section 10.5). -/
def FreshSource.code : FreshSource → Nat
  | .record => 0
  | .sensor => 1
  | .nominal => 2

/-- The code of a result (section 10.5). -/
def Result.code : Result → Nat
  | .accepted => 0
  | .wrongMode => 1
  | .wrongState => 2
  | .locked => 3
  | .badValue => 4
  | .inUse => 5
  | .duplicate => 6
  | .full => 7
  | .empty => 8
  | .gap => 9
  | .tooLate => 10
  | .unknownVerb => 11

/-- The code of a part mode (section 10.3). -/
def Mode.code : Mode → Nat
  | .config => 0
  | .run => 1
  | .hold => 2

/-- The number whose bit k is the k-th mark of the list (flag bytes, section 10.4). -/
def flagBits : List Bool → Nat
  | [] => 0
  | b :: bs => b.toNat + 2 * flagBits bs

end Machine

end Sys2Proof
end

