-- ==== Sys2Proof/Machine/Operands.lean ====
section
/-! DEFINITION. The operand forms: fields of payloads and their records (chapter 10), the frames the part sends, the cyclic check and the bits on the line (R140 to R142), and the time and range helpers of R1. -/

namespace Sys2Proof

namespace Machine

/-! ### Arithmetic of R1 -/

/-- An instant `d` µs after `t`, modulo 2^32 (R108). -/
def after (t : Time) (d : Nat) : Time := t + BitVec.ofNat 32 d

/-- The local-clock interval from `a` to `b`, modulo 2^32 (R1). -/
def elapsed (a b : Time) : Nat := (b - a).toNat

/-- `x` clamped to `lo` through `hi` (R1): below gives the lower end, above the upper end. -/
def clampInt (lo hi x : Int) : Int := if x < lo then lo else if hi < x then hi else x

/-- A natural number clamped to at most `hi`. -/
def capNat (hi x : Nat) : Nat := if hi < x then hi else x

/-- A quotient whose divisor may be 0 in a state no run reaches: the free value of log entry 9 there, the truncated
quotient otherwise (R1). -/
def quotient (a b : Nat) : Nat := if b = 0 then Config.divByZero a else a / b

/-! ### Fields of a payload (chapter 10: most significant byte first) -/

/-- The byte at offset `k`. -/
def byteAt (p : List Byte) (k : Nat) : Byte := p.getD k 0

/-- The 1-byte field at offset `k` as a number. -/
def u8 (p : List Byte) (k : Nat) : Nat := (byteAt p k).toNat

/-- The 2-byte field at offset `k`. -/
def w16 (p : List Byte) (k : Nat) : BitVec 16 := byteAt p k ++ byteAt p (k + 1)

/-- The 2-byte field at offset `k` as a number. -/
def u16 (p : List Byte) (k : Nat) : Nat := (w16 p k).toNat

/-- The signed 2-byte field at offset `k`, two's complement. -/
def s16 (p : List Byte) (k : Nat) : Int := (w16 p k).toInt

/-- The 4-byte field at offset `k`. -/
def w32 (p : List Byte) (k : Nat) : BitVec 32 := w16 p k ++ w16 p (k + 2)

/-- The 4-byte field at offset `k` as a number. -/
def u32 (p : List Byte) (k : Nat) : Nat := (w32 p k).toNat

/-- The bytes of a 1-byte field. -/
def b1 (n : Nat) : List Byte := [BitVec.ofNat 8 n]

/-- The bytes of a 16-bit word, most significant first. -/
def b16 (w : BitVec 16) : List Byte := [w.extractLsb' 8 8, w.extractLsb' 0 8]

/-- The bytes of a 2-byte field. -/
def b2 (n : Nat) : List Byte := b16 (BitVec.ofNat 16 n)

/-- The bytes of a signed 2-byte field, two's complement. -/
def s2 (n : Int) : List Byte := b16 (BitVec.ofInt 16 n)

/-- The bytes of a 4-byte field, most significant first. -/
def b4 (w : BitVec 32) : List Byte := b16 (w.extractLsb' 16 16) ++ b16 (w.extractLsb' 0 16)

/-! ### Numbering -/

/-- The stand that a stand number names: none outside 1 to 6 (R2). -/
def standOf (n : Nat) : Option StandNo := if h : 1 ≤ n ∧ n ≤ 6 then some ⟨n - 1, by omega⟩ else none

/-- The stand number of a stand. -/
def standNumber (i : StandNo) : Nat := i.val + 1

/-- The grade slot that a grade number names: none outside 0 to 31 (R2). -/
def gradeOf (n : Nat) : Option (Fin 32) := if h : n < 32 then some ⟨n, h⟩ else none

/-- A station number of an individual station: 1 to 239 (00_scope.md, Numbering). -/
def individualStation (b : Byte) : Bool := decide (1 ≤ b.toNat) && decide (b.toNat ≤ 239)

/-- A group number: 240 to 254 (00_scope.md, Numbering). -/
def groupNumber (b : Byte) : Bool := decide (240 ≤ b.toNat) && decide (b.toNat ≤ 254)

/-! ### Verbs (section 10.1) -/

/-- LINE SAMPLE. -/
def verbLineSample : Byte := 0x10
/-- LINE HOLD. -/
def verbLineHold : Byte := 0x11
/-- DRIVE ORDER. -/
def verbDriveOrder : Byte := 0x20
/-- SPLICE NOTICE. -/
def verbSpliceNotice : Byte := 0x30
/-- STAND REPORT. -/
def verbStandReport : Byte := 0x31
/-- ASK STATUS. -/
def verbAskStatus : Byte := 0x40
/-- ASK STAND. -/
def verbAskStand : Byte := 0x41
/-- ASK GRADE. -/
def verbAskGrade : Byte := 0x42
/-- ASK QUEUE. -/
def verbAskQueue : Byte := 0x43
/-- ASK LOG. -/
def verbAskLog : Byte := 0x44
/-- ASK LINE. -/
def verbAskLine : Byte := 0x45
/-- PUT GRADE. -/
def verbPutGrade : Byte := 0x50
/-- PUT STAND. -/
def verbPutStand : Byte := 0x51
/-- PUT LINE. -/
def verbPutLine : Byte := 0x52
/-- ADD REEL. -/
def verbAddReel : Byte := 0x53
/-- DROP REEL. -/
def verbDropReel : Byte := 0x54
/-- SET RUNNING. -/
def verbSetRunning : Byte := 0x55
/-- MARK READY. -/
def verbMarkReady : Byte := 0x56
/-- SET MODE. -/
def verbSetMode : Byte := 0x60
/-- STAND ORDER. -/
def verbStandOrder : Byte := 0x61
/-- TAKE CONTROL. -/
def verbTakeControl : Byte := 0x62
/-- GIVE CONTROL. -/
def verbGiveControl : Byte := 0x63
/-- CLEAR LATCH. -/
def verbClearLatch : Byte := 0x64
/-- RESTART. -/
def verbRestart : Byte := 0x65
/-- SET GROUPS. -/
def verbSetGroups : Byte := 0x66
/-- REPLY. -/
def verbReply : Byte := 0x70

/-- The verbs that name a request (R159). -/
def requestVerb (v : Byte) : Bool :=
  (decide (0x40 ≤ v.toNat) && decide (v.toNat ≤ 0x45)) || (decide (0x50 ≤ v.toNat) && decide (v.toNat ≤ 0x56)) ||
    (decide (0x60 ≤ v.toNat) && decide (v.toNat ≤ 0x66))

/-- The verbs that the part itself sends (R159). -/
def partVerb (v : Byte) : Bool :=
  v == verbDriveOrder || v == verbSpliceNotice || v == verbStandReport || v == verbReply

/-- The verbs of frames passed on as they arrive (R150). -/
def arrivalVerb (v : Byte) : Bool := v == verbLineSample || v == verbLineHold

/-- A verb value assigned to nothing (section 10.1, R159). -/
def unassignedVerb (v : Byte) : Bool := !(requestVerb v) && !(partVerb v) && !(arrivalVerb v)

/-! ### Records in requests (section 10.3) -/

/-- The twelve fields of PUT GRADE, from offset 1 (section 10.3). -/
def gradeOfPayload (p : List Byte) : GradeRecord where
  caliper := u16 p 1
  core := u16 p 3
  runoutMargin := u16 p 5
  spliceDiameter := u16 p 7
  nominal := u16 p 9
  defaultTab := u16 p 11
  tailLength := u16 p 13
  runUpRate := u16 p 15
  settleTime := u16 p 17
  lockBand := u16 p 19
  lockCount := u16 p 21
  correctionLimit := u16 p 23

/-- `x` lies within `lo` through `hi`. -/
def within (lo hi x : Nat) : Bool := decide (lo ≤ x) && decide (x ≤ hi)

/-- Steps 2 to 4 of R4: every field of a grade record in its range, and the two cross-field checks. -/
def gradeInRange (g : GradeRecord) : Bool :=
  within 30 300 g.caliper && within 500 2000 g.core && within 20 500 g.runoutMargin &&
  decide (g.spliceDiameter ≤ 4000) && decide (g.nominal ≤ 14000) && within 0 999 g.defaultTab &&
  within 20 1000 g.tailLength && within 200 5000 g.runUpRate && within 0 20000 g.settleTime &&
  within 5 200 g.lockBand && within 2 32 g.lockCount && within 50 2000 g.correctionLimit &&
  decide (g.core + g.runoutMargin + 100 ≤ g.spliceDiameter) && decide (g.spliceDiameter + 1000 ≤ g.nominal)

/-- The fields of PUT STAND, from offset 1 (section 10.3): none when the enabled byte, the web slot or the horn pitch
names nothing (R173, R6). -/
def standRecordOfPayload (p : List Byte) : Option StandRecord :=
  if h : u8 p 1 ≤ 1 ∧ u8 p 2 < 6 ∧ u8 p 4 < 4 then
    some {
      enabled := decide (u8 p 1 = 1)
      webSlot := ⟨u8 p 2, h.2.1⟩
      driveStation := byteAt p 3
      hornPitch := ⟨u8 p 4, h.2.2⟩
      sensorToNip := u16 p 5
      pasterLatency := u32 p 7
      knifeLatency := u32 p 11
      knifePath := u16 p 15
      pasteHold := u16 p 17
      knifePulse := u16 p 19
      brakeDelay := u16 p 21
      brakeHold := u16 p 23
      filterTime := u16 p 25
      sensorZero := u16 p 27
      sensorSlope := s16 p 29
      dancerLow := u16 p 31
      dancerHigh := u16 p 33
      leadMargin := u16 p 35
      warnTime := u16 p 37 }
  else none

/-- Every field of a stand record within its range of R6, dancer band low less than dancer band high. -/
def standInRange (r : StandRecord) : Bool :=
  individualStation r.driveStation && within 0 999 r.sensorToNip && within 5000 200000 r.pasterLatency &&
  within 2000 100000 r.knifeLatency && within 0 3000 r.knifePath && within 100 2000 r.pasteHold &&
  within 20 500 r.knifePulse && within 0 5000 r.brakeDelay && within 1000 30000 r.brakeHold &&
  within 50 2000 r.filterTime && within 0 14000 r.sensorZero &&
  decide (-10000 ≤ r.sensorSlope) && decide (r.sensorSlope ≤ 10000) &&
  within 16 4079 r.dancerLow && within 16 4079 r.dancerHigh && within 0 30000 r.leadMargin &&
  within 0 60000 r.warnTime && decide (r.dancerLow < r.dancerHigh)

/-- The fields of PUT LINE (section 10.3). -/
def lineOfPayload (p : List Byte) : LineSettings where
  lineMaster := byteAt p 0
  reportStation := byteAt p 1
  minSamples := u8 p 2
  rateLimit := u16 p 3

/-- The checks of R10 on a line settings record, for a part with this station number. -/
def lineInRange (l : LineSettings) (station : Byte) : Bool :=
  decide (l.lineMaster.toNat < 240) && decide (l.lineMaster ≠ station) && decide (l.reportStation ≠ station) &&
  within 1 10 l.minSamples && within 500 10000 l.rateLimit

/-- An optional field: read only when its presence bit is 1 (R173). -/
def optionalField (present : Bool) (x : Nat) : Option Nat := if present then some x else none

/-- An optional field lies within a range when it is present. -/
def optionalWithin (lo hi : Nat) : Option Nat → Bool
  | none => true
  | some x => within lo hi x

/-! ### Frames -/

/-- The frame is addressed to one station (00_scope.md, Numbering). -/
def Frame.individual (f : Frame) : Bool := decide (f.target.toNat < 240)

/-- The header is addressed to one station. -/
def toOneStation (h : Header) : Bool := decide (h.target.toNat < 240)

/-- The frame that a header and a payload make (R152). -/
def frameOf (h : Header) (payload : List Byte) : Frame := ⟨h.cls, h.sender, h.target, h.verb, payload⟩

/-- The verb of a transmit queue entry's frame (section 10.1). -/
def TxBody.verb : TxBody → Byte
  | .reference _ _ => verbDriveOrder
  | .handover _ _ => verbDriveOrder
  | .release _ => verbDriveOrder
  | .notice _ => verbSpliceNotice
  | .report _ _ _ => verbStandReport
  | .reply _ _ _ => verbReply

/-- The payload of a transmit queue entry's frame (section 10.2). -/
def TxBody.payload : TxBody → List Byte
  | .reference i v => b1 1 ++ b1 (standNumber i) ++ b2 v
  | .handover i v => b1 2 ++ b1 (standNumber i) ++ b2 v
  | .release i => b1 3 ++ b1 (standNumber i) ++ b2 0
  | .notice n => b1 (standNumber n.stand) ++ b16 n.seq ++ b4 n.joint ++ b2 n.v ++ b4 n.fresh ++ b1 n.outcome.code
  | .report i c e => b1 (standNumber i) ++ b1 c.code ++ b16 e
  | .reply v r d => [v] ++ b1 r.code ++ d

/-- The frame that the part with this station number sends for an entry (R154, R146). -/
def TxEntry.frame (e : TxEntry) (station : Byte) : Frame := ⟨e.cls, station, e.target, e.body.verb, e.body.payload⟩

/-! ### Checks and line bits (R140 to R142) -/

/-- The class bit: 0 urgent, 1 normal (R141). -/
def classBit : FrameClass → Bool
  | .urgent => false
  | .normal => true

/-- The bits of a byte, most significant first (R140). -/
def byteBits (b : Byte) : List Bool :=
  [b.getLsbD 7, b.getLsbD 6, b.getLsbD 5, b.getLsbD 4, b.getLsbD 3, b.getLsbD 2, b.getLsbD 1, b.getLsbD 0]

/-- One bit taken into the check register (R142). -/
def crcStep (r : Byte) (bit : Bool) : Byte := if r.getLsbD 7 == bit then r <<< 1 else (r <<< 1) ^^^ 7

/-- The CRC-8 over these bits (R142). -/
def crc8 (bits : List Bool) : Byte := bits.foldl crcStep 0

/-- The check over bytes. -/
def crcBytes (p : List Byte) : Byte := crc8 (p.flatMap byteBits)

/-- The header check: over the class bit, sender, target, verb and length (R142). -/
def headerCheck (h : Header) : Byte :=
  crc8 (classBit h.cls :: [h.sender, h.target, h.verb, h.length].flatMap byteBits)

/-- The header of a frame. -/
def Frame.header (f : Frame) : Header := ⟨f.cls, f.sender, f.target, f.verb, BitVec.ofNat 8 f.payload.length⟩

/-- Cells after a bit time in which the line read `prev`: a change bit, the opposite of the level before it, then the
byte's bits (R140). A `true` is recessive. -/
def cells : Bool → List Byte → List Bool
  | _, [] => []
  | prev, b :: bs => (!prev) :: (byteBits b ++ cells (b.getLsbD 0) bs)

/-- The bits by which stations contend: the class bit, then the sender bits (R141, R145). -/
def contestBits (c : FrameClass) (sender : Byte) : List Bool := classBit c :: byteBits sender

/-- The 45 bits of a header with this check byte, from the class bit to the end of the header check cell (R141). -/
def headerBits (h : Header) (check : Byte) : List Bool :=
  contestBits h.cls h.sender ++ cells (h.sender.getLsbD 0) [h.target, h.verb, h.length, check]

/-- The bits of a frame after its start mark (R141), with these bits in the acknowledge slots; `slot` is the level read in
the header slot. A frame to an individual target whose header slot reads recessive ends there. -/
def Frame.bits (f : Frame) (slot headerBit payloadBit : Bool) : List Bool :=
  headerBits f.header (headerCheck f.header) ++ headerBit ::
    (if f.individual && slot then [] else cells slot (f.payload ++ [crcBytes f.payload]) ++ [payloadBit])

/-- The bits the part sends for a frame whose header acknowledge slot reads `slot` (R141, R147): the start mark, then the
frame with both slots sent recessive. -/
def Frame.lineBits (f : Frame) (slot : Bool) : List Bool := false :: f.bits slot true true

/-- The levels read after the start mark of a frame whose slots read dominant or not, and whose other bits read back as
they were sent (R141, R147). -/
def Frame.readBits (f : Frame) (headerDominant payloadDominant : Bool) : List Bool :=
  f.bits (!headerDominant) (!headerDominant) (!payloadDominant)

/-- A bit time is read: each recessive one returns the dominant run to 0 (R144), each dominant one the recessive count
(R143). -/
def LineRuns.bit (r : LineRuns) (recessive : Bool) : LineRuns :=
  if recessive then ⟨0, r.recessive + 1⟩ else ⟨r.dominant + 1, 0⟩

/-- These levels are read, one a bit time. -/
def LineRuns.read (r : LineRuns) (levels : List Bool) : LineRuns := levels.foldl LineRuns.bit r

/-- The runs at a frame's start mark, the first dominant bit after recessive ones (R143). -/
def LineRuns.atStartMark : LineRuns := ⟨1, 0⟩

/-- The last two bit times had one level. -/
def LineRuns.repeated (r : LineRuns) : Bool := decide (2 ≤ r.dominant) || decide (2 ≤ r.recessive)

/-! ### The contest (R145) -/

/-- The contest of the part's bits with the rivals still driving, bit by bit: the levels on the line and whether the part
goes on to the end. The line is wired-AND; a station that sends recessive and reads dominant has lost and stops driving
(R140, R145). -/
def contest : List Bool → List (List Bool) → List Bool × Bool
  | [], _ => ([], true)
  | b :: own, rivals =>
    let level := b && rivals.all fun r => r.headD true
    if b = level then
      let rest := contest own ((rivals.filter fun r => r.headD true == level).map List.tail)
      (level :: rest.1, rest.2)
    else ([level], false)

/-- What the line makes of the part's frame against these rivals (R145). -/
def Frame.contend (f : Frame) (rivals : List Contestant) : Sending :=
  let r := contest (contestBits f.cls f.sender) (rivals.map fun x => contestBits x.cls x.sender)
  ⟨f, r.1, r.2⟩

/-! ### Reply data (section 10.4) -/

/-- The twelve fields of a grade record as bytes. -/
def gradeBytes (g : GradeRecord) : List Byte :=
  b2 g.caliper ++ b2 g.core ++ b2 g.runoutMargin ++ b2 g.spliceDiameter ++ b2 g.nominal ++ b2 g.defaultTab ++
  b2 g.tailLength ++ b2 g.runUpRate ++ b2 g.settleTime ++ b2 g.lockBand ++ b2 g.lockCount ++ b2 g.correctionLimit

/-- A reel record in ASK QUEUE's reply: 9 bytes. -/
def reelBytes (r : ReelRecord) : List Byte :=
  b4 r.id ++ b1 (r.grade.val + 32 * flagBits [r.diameter.isSome, r.tab.isSome, r.ready]) ++
  b2 (r.diameter.getD 0) ++ b2 (r.tab.getD 0)

/-- A splice record as bytes (section 10.5). -/
def recordBytes (r : SpliceRecord) : List Byte :=
  b16 r.seq ++ b1 (standNumber r.stand) ++ b4 r.time ++ b1 r.outcome.code ++ b1 (causeCode r.cause) ++
  b1 (flagBits [r.early, r.tailLong, r.tailShort, r.noticeUnacked] + 16 * r.source.code) ++
  b4 r.expiring ++ b4 r.fresh ++ b2 r.v ++ b2 r.dRun ++ b4 r.joint ++ s2 r.e

end Machine

end Sys2Proof
end

