-- ==== Sys2Proof/Machine/Ops.lean ====
section
/-! DEFINITION. The named operations that the commands share: access to stands and trackers, the transmit queue and its slot arbiter, events and reports, the splice log and notices, the horn, the moves of a splice context, aborts and the ends of a splice. -/

namespace Sys2Proof

namespace Machine

namespace State

/-! ### Access -/

/-- The event is taken at local time `t`. -/
def setClock (s : State) (t : Time) : State := { s with clock := t }

/-- A stand. -/
def stand (s : State) (i : StandNo) : Stand := s.stands[i]

/-- Replace a stand. -/
def setStand (s : State) (i : StandNo) (x : Stand) : State := { s with stands := s.stands.set i x }

/-- Change a stand. -/
def modStand (s : State) (i : StandNo) (f : Stand → Stand) : State := s.setStand i (f (s.stand i))

/-- Change a stand's splice context. -/
def modCtx (s : State) (i : StandNo) (f : Context → Context) : State :=
  s.modStand i fun x => { x with ctx := f x.ctx }

/-- Change a stand's speed-match loop. -/
def modLoop (s : State) (i : StandNo) (f : Loop → Loop) : State :=
  s.modStand i fun x => { x with loop := f x.loop }

/-- Change a stand's output unit. -/
def modOut (s : State) (i : StandNo) (f : Output → Output) : State :=
  s.modStand i fun x => { x with out := f x.out }

/-- A tracker. -/
def tracker (s : State) (k : SlotNo) : Tracker := s.trackers[k]

/-- Replace a tracker. -/
def setTracker (s : State) (k : SlotNo) (x : Tracker) : State := { s with trackers := s.trackers.set k x }

/-- The tracker of a stand's web slot. -/
def trackerOf (s : State) (i : StandNo) : Tracker := s.tracker (s.stand i).record.webSlot

/-- Change the port. -/
def modPort (s : State) (f : Port → Port) : State := { s with port := f s.port }

/-- The record of a grade slot; every field 0 when it is undefined (R24; log entry 10). -/
def grade (s : State) (g : Fin 32) : GradeRecord := (s.grades[g]).getD GradeRecord.zero

/-- The head of a stand's reel queue (R13). -/
def head (s : State) (i : StandNo) : Option ReelRecord := (s.stand i).queue.head?

/-- The grade record of the stand's head reel. -/
def headGrade (s : State) (i : StandNo) : GradeRecord :=
  match s.head i with
  | some r => s.grade r.grade
  | none => GradeRecord.zero

/-- The grade record of the stand's running reel. -/
def runningGrade (s : State) (i : StandNo) : GradeRecord :=
  match (s.stand i).running with
  | some r => s.grade r.grade
  | none => GradeRecord.zero

end State

/-- The six stands, 1 to 6. -/
def allStands : List StandNo := [0, 1, 2, 3, 4, 5]

/-- An order of parties made whole: those named, first to last, then the others as listed in `all` (log entry 5). -/
def wholeOrder {α : Type} [DecidableEq α] (all o : List α) : List α :=
  (o.filter (fun x => all.contains x)).eraseDups ++ all.filter (fun x => !o.contains x)

/-- Apply an action to each of the six stands in the order given. -/
def forStands (o : List StandNo) (f : StandNo → State → State) (s : State) : State :=
  (wholeOrder allStands o).foldl (fun s i => f i s) s

/-- Change each of the six stands by a function of its number and its own content alone. -/
def State.mapStands (s : State) (f : StandNo → Stand → Stand) : State :=
  allStands.foldl (fun s i => s.modStand i (f i)) s

/-- Change each of the six trackers by a function of its slot and its own content alone. -/
def State.mapTrackers (s : State) (f : SlotNo → Tracker → Tracker) : State :=
  allStands.foldl (fun s k => s.setTracker k (f k (s.tracker k))) s

/-- The timer expires at this instant: it is armed and the local clock stands at its expiry time (R108). -/
def due (timer : Option Time) (clock : Time) : Bool := timer == some clock

namespace State

/-- A web slot is in use while at least one enabled stand names it (R26). -/
def slotInUse (s : State) (k : SlotNo) : Bool :=
  allStands.any fun i => (s.stand i).record.enabled && (s.stand i).record.webSlot == k

/-! ### Transmit queue (R146) -/

/-- The slots of the transmit queue that count as occupied: its entries, and one handed to the request handler. -/
def usedSlots (s : State) : Nat := s.port.tx.length + (if s.port.handlerSlot then 1 else 0)

/-- The transmit queue has a free slot. -/
def hasFree (s : State) : Bool := decide (s.usedSlots < Config.txCapacity)

/-- Place an entry as the youngest of the transmit queue. -/
def place (s : State) (e : TxEntry) : State := s.modPort fun p => { p with tx := p.tx ++ [e] }

end State

/-- The entry is a REFERENCE of this stand. -/
def TxEntry.isReference (i : StandNo) (e : TxEntry) : Bool :=
  match e.body with
  | .reference j _ => j == i
  | _ => false

/-- The entry is a stand report of this stand. -/
def TxEntry.isReport (i : StandNo) (e : TxEntry) : Bool :=
  match e.body with
  | .report j _ _ => j == i
  | _ => false

/-- A frame of the receive queue that calls for a reply: addressed to the part alone, and not discarded (R157, R159). -/
def Frame.callsForReply (f : Frame) : Bool := f.individual && !(partVerb f.verb)

/-- The entry of a notice (R132). -/
def Notice.entry (n : Notice) : TxEntry := ⟨.urgent, n.target, .notice n, false, false⟩

namespace State

/-- The entry of a HANDOVER or RELEASE placed now: addressed to the stand record's drive station, carrying R or 0
(R102, R103; log entry 18). -/
def driveEntry (s : State) (i : StandNo) : DriveKind → TxEntry
  | .handover =>
    ⟨.urgent, (s.stand i).record.driveStation, .handover i (s.stand i).loop.reference, false, false⟩
  | .release => ⟨.urgent, (s.stand i).record.driveStation, .release i, false, false⟩

/-- The body of a stand report as it would be now (R137). -/
def reportBody (s : State) (i : StandNo) : TxBody := .report i (s.stand i).ctx.state (s.stand i).events

/-- The entry of a stand report placed now (R137). -/
def reportEntry (s : State) (i : StandNo) : TxEntry :=
  ⟨.normal, s.line.reportStation, s.reportBody i, false, false⟩

/-- The request handler waits for a slot: the frame at the head of the receive queue calls for a reply and no slot has
been handed over yet (R149, R157). That it then takes a freed slot also when another was free and nobody waited is the
model's choice (log entry 24). -/
def handlerWaits (s : State) : Bool :=
  match s.port.rx with
  | [] => false
  | f :: _ => f.callsForReply && !s.port.handlerSlot

/-- No party waits for a slot of the transmit queue (R157). -/
def nobodyWaits (s : State) : Bool :=
  s.port.waitingDrives.isEmpty && s.port.waitingNotices.isEmpty && s.port.owedReports.isEmpty

/-- Offer a freed slot to the owed reports, the stand whose mark was set earliest first (R138, R149). While the report
station is 0 every owed report declines and its mark is cleared. A stand whose own report still stands in the queue
declines and keeps its mark (log entry 12). -/
def offerReports (s : State) : State :=
  if s.line.reportStation = 0 then s.modPort fun p => { p with owedReports := [] }
  else
    match s.port.owedReports.find? (fun i => !(s.port.tx.any (TxEntry.isReport i))) with
    | none => s
    | some i =>
      (s.modPort fun p => { p with owedReports := p.owedReports.erase i }).place (s.reportEntry i)

/-- Offer one freed slot to the waiting parties (R149): pending drive orders, pending notices, the request handler,
owed reports. -/
def offer (s : State) : State :=
  if s.hasFree then
    match s.port.waitingDrives with
    | d :: rest =>
      (s.modPort fun p => { p with waitingDrives := rest }).place (s.driveEntry d.stand d.kind)
    | [] =>
      match s.port.waitingNotices with
      | n :: rest => (s.modPort fun p => { p with waitingNotices := rest }).place n.entry
      | [] =>
        if s.handlerWaits then s.modPort fun p => { p with handlerSlot := true } else s.offerReports
  else s

/-- Offer as many freed slots, one after the other. -/
def offerMany : Nat → State → State
  | 0, s => s
  | n + 1, s => offerMany n s.offer

/-! ### Events and stand reports (R135 to R138) -/

/-- Set the stand's report-owed mark; a mark already set keeps its place among the waiting parties (R138). -/
def owe (s : State) (i : StandNo) : State :=
  if s.port.owedReports.contains i then s
  else s.modPort fun p => { p with owedReports := p.owedReports ++ [i] }

/-- Update the content of the stand's report that is not begun (R137). -/
def refreshReport (s : State) (i : StandNo) : State :=
  s.modPort fun p =>
    { p with tx := p.tx.map fun e => if e.isReport i && !e.begun then { e with body := s.reportBody i } else e }

/-- A mark of the stand's event set has newly latched: bring the stand's report up to date (R137). -/
def bringUpReport (s : State) (i : StandNo) : State :=
  if s.line.reportStation = 0 then s
  else
    match s.port.tx.find? (TxEntry.isReport i) with
    | some e => if e.begun then s.owe i else s.refreshReport i
    | none => if s.hasFree then s.place (s.reportEntry i) else s.owe i

/-- Raise an event of a kind for a stand (R135). -/
def raise (s : State) (i : StandNo) (k : EventKind) : State :=
  if hasEvent (s.stand i).events k then s
  else (s.modStand i fun x => { x with events := withEvent x.events k }).bringUpReport i

/-! ### Drive orders (R96, R102 to R105) -/

/-- Place a HANDOVER or RELEASE, or hold it as the stand's pending drive order (R102 to R104). -/
def queueDrive (s : State) (i : StandNo) (k : DriveKind) : State :=
  if s.hasFree then s.place (s.driveEntry i k)
  else s.modPort fun p => { p with waitingDrives := p.waitingDrives ++ [⟨i, k⟩] }

/-- Mark every REFERENCE of the stand as one whose loop has stopped or been reset (R101, R105). -/
def killReferences (s : State) (i : StandNo) : State :=
  s.modPort fun p => { p with tx := p.tx.map fun e => if e.isReference i then { e with dead := true } else e }

/-- Withdraw every REFERENCE of the stand that is not begun, and offer the slots freed (R105, R149). -/
def withdrawReferences (s : State) (i : StandNo) : State :=
  let gone := s.port.tx.countP fun e => e.isReference i && !e.begun
  offerMany gone
    ((s.modPort fun p => { p with tx := p.tx.filter fun e => !(e.isReference i && !e.begun) }).killReferences i)

/-- The loop becomes STOPPED (R94, R105). -/
def stopLoop (s : State) (i : StandNo) : State :=
  (s.modLoop i fun l => { l with activity := .stopped }).withdrawReferences i

/-- Place a REFERENCE of this speed (R96): rewrite the stand's entry not begun, or place a new one, and R becomes the
speed; with no such entry and no free slot nothing is placed and R keeps its value. -/
def placeReference (s : State) (i : StandNo) (speed : Nat) : State :=
  if s.port.tx.any fun e => e.isReference i && !e.begun then
    (s.modPort fun p =>
      { p with tx := p.tx.map fun e =>
          if e.isReference i && !e.begun then { e with body := .reference i speed } else e }).modLoop i
      fun l => { l with reference := speed }
  else if s.hasFree then
    (s.place ⟨.urgent, (s.stand i).record.driveStation, .reference i speed, false, false⟩).modLoop i
      fun l => { l with reference := speed }
  else s

/-! ### Splice log and notices (R129 to R134) -/

/-- The id of a running reel, 0 when it is absent (R22). -/
def runningId (s : State) (i : StandNo) : ReelId :=
  match (s.stand i).running with
  | some r => r.id
  | none => 0

/-- The id of the head reel, 0 with no head (R92). -/
def headId (s : State) (i : StandNo) : ReelId :=
  match s.head i with
  | some r => r.id
  | none => 0

/-- The record of an outcome, made up as R92 gives; its number is the next one (R130). -/
def makeRecord (s : State) (i : StandNo) (o : SpliceOutcome) : SpliceRecord :=
  let x := s.stand i
  let fired : Bool := o == .spliced || o == .breakSuspect || o == .failedInterlock
  { seq := s.nextSeq
    stand := i
    time := s.clock
    outcome := o
    cause := if o == .aborted then x.ctx.cause else none
    early := x.ctx.early && !(o == .runout)
    tailLong := fired && x.ctx.tailLong
    tailShort := fired && x.ctx.tailShort
    noticeUnacked := false
    source := x.source
    expiring := s.runningId i
    fresh := s.headId i
    v := if fired then x.ctx.vFire else 0
    dRun := if fired then x.ctx.dRunFire else 0
    joint := if fired then x.ctx.joint else 0
    e := if fired then x.ctx.eFire else 0 }

/-- The log takes a record: the oldest leaves a full ring, and the next sequence number rises by one (R130). -/
def logRecord (s : State) (r : SpliceRecord) : State :=
  { s with log := s.log.drop (s.log.length + 1 - Config.logCapacity) ++ [r], nextSeq := s.nextSeq + 1 }

/-- Set NOTICE_UNACKED in the record of this number, when the ring still holds it (R134). -/
def markUnacked (s : State) (n : SeqNo) : State :=
  { s with log := s.log.map fun r => if r.seq = n then { r with noticeUnacked := true } else r }

/-- The notice of a record, addressed to the line master station as it stands (R132). -/
def makeNotice (s : State) (r : SpliceRecord) : Notice :=
  ⟨r.stand, s.line.lineMaster, r.seq, r.joint, r.v, r.fresh, r.outcome⟩

/-- Discard the stand's pending notice, if it holds one: its record has NOTICE_UNACKED set (R133). -/
def dropPendingNotice (s : State) (i : StandNo) : State :=
  let held := s.port.waitingNotices.filter fun n => n.stand == i
  held.foldl (fun s n => s.markUnacked n.seq)
    (s.modPort fun p => { p with waitingNotices := p.waitingNotices.filter fun n => !(n.stand == i) })

/-- Place a notice, or hold it as the stand's pending notice in place of one still held (R132, R133). -/
def sendNotice (s : State) (n : Notice) : State :=
  if s.hasFree then s.place n.entry
  else (s.dropPendingNotice n.stand).modPort fun p => { p with waitingNotices := p.waitingNotices ++ [n] }

/-- Write the record of an outcome, and its notice when the outcome forms one (R130, R132). -/
def writeOutcome (s : State) (i : StandNo) (o : SpliceOutcome) : State :=
  let r := s.makeRecord i o
  let s1 := s.logRecord r
  if o == .spliced || o == .breakSuspect || o == .failedInterlock then s1.sendNotice (s1.makeNotice r) else s1

end State

/-! ### Horn (R125 to R127) -/

/-- The half period of a pitch, in µs (R125). -/
def halfPeriod : Fin 4 → Nat
  | 0 => 1000
  | 1 => 625
  | 2 => 417
  | 3 => 250

/-- The pattern for a context state and prewarn mark (R126). -/
def hornPattern (c : CtxState) (prewarn : Bool) : HornPattern :=
  match c with
  | .fireWait | .fireSet | .pasting => .continuous
  | .watch | .runUp | .matched => if prewarn then .prewarn else .off
  | .off | .idle | .noReel | .cut | .stopping => .off

/-- A pattern starts at this instant with this pitch (R127). -/
def hornStart (p : HornPattern) (pitch : Fin 4) (clock : Time) : Horn :=
  match p with
  | .off => ⟨.off, pitch, false, none, none, false⟩
  | .prewarn =>
    ⟨.prewarn, pitch, true, some (after clock (halfPeriod pitch)), some (after clock Config.prewarnPhaseLength), true⟩
  | .continuous => ⟨.continuous, pitch, true, some (after clock (halfPeriod pitch)), none, true⟩

namespace State

/-- The generator chooses its pattern anew; a pattern that differs from the one running starts (R127). -/
def chooseHorn (s : State) (i : StandNo) : State :=
  let x := s.stand i
  let p := hornPattern x.ctx.state x.ctx.prewarn
  if p = x.out.horn.pattern then s
  else s.modOut i fun o => { o with horn := hornStart p x.record.hornPitch s.clock }

/-! ### Moves of a splice context -/

/-- The context enters a state; the horn chooses its pattern. -/
def enterState (s : State) (i : StandNo) (c : CtxState) : State :=
  (s.modCtx i fun x => { x with state := c }).chooseHorn i

/-- The prewarn mark is written; the horn chooses its pattern. -/
def setPrewarn (s : State) (i : StandNo) (b : Bool) : State :=
  (s.modCtx i fun x => { x with prewarn := b }).chooseHorn i

/-- The prewarn mark is set; PREWARN is raised when it rises (R66). -/
def risePrewarn (s : State) (i : StandNo) : State :=
  if (s.stand i).ctx.prewarn then s else (s.setPrewarn i true).raise i .prewarn

/-- The head is present and carries the ready mark. -/
def headReady (s : State) (i : StandNo) : Bool :=
  match s.head i with
  | some r => r.ready
  | none => false

/-- The resting state that the four conditions of R61 give. -/
def restState (s : State) (i : StandNo) : CtxState :=
  let x := s.stand i
  if !x.record.enabled then .off
  else if s.mode == .config || !x.ctx.auto then .idle
  else if x.running.isSome && s.headReady i then .watch
  else .noReel

/-- Entry to a resting state: EARLY and prewarn cleared, the abort cause none (R61). -/
def enterRest (s : State) (i : StandNo) : State :=
  (s.modCtx i fun x => { x with state := s.restState i, early := false, cause := none, prewarn := false }).chooseHorn i

/-- A context in a resting state settles (R61); any other context carries its splice on. -/
def settle (s : State) (i : StandNo) : State :=
  if (s.stand i).ctx.state.resting && !(s.restState i == (s.stand i).ctx.state) then s.enterRest i else s

/-- Clear the head's ready mark (R23). -/
def clearHeadReady (s : State) (i : StandNo) : State :=
  s.modStand i fun x => { x with queue := x.queue.modifyHead fun r => { r with ready := false } }

/-- Abort a splice: entry to STOPPING with this cause (R84). -/
def abort (s : State) (i : StandNo) (c : AbortCause) : State :=
  let s := s.enterState i .stopping
  let s := s.modOut i fun o => { o with pasterAt := none }
  let s := s.modCtx i fun x => { x with missingTabAt := none, cause := some c }
  let s := s.writeOutcome i .aborted
  let s := s.clearHeadReady i
  let s := (s.stopLoop i).queueDrive i .release
  let s := (s.setPrewarn i false).raise i .aborted
  s.modCtx i fun x => { x with stoppingAt := some (after s.clock Config.stoppingDelay) }

/-- An event that aborts a splice in RUNUP, MATCHED, FIRE_WAIT or FIRE_SET and nothing else (R83). -/
def abortBeforeFire (s : State) (i : StandNo) (c : AbortCause) : State :=
  if (s.stand i).ctx.state.beforeFire then s.abort i c else s

/-- Entry to FIRE_WAIT: the missing-tab timer is armed for 3 × T, or the splice aborts with NO_TAB when the FRESH channel
holds no valid period (R72). -/
def enterFireWait (s : State) (i : StandNo) : State :=
  let s := s.enterState i .fireWait
  match (s.stand i).freshCh.lastPeriod with
  | none => s.abort i .noTab
  | some p => s.modCtx i fun x => { x with missingTabAt := some (after s.clock (3 * p)) }

/-- The third check of R69: D_run has reached D_sp of the running reel's grade. -/
def atSpliceDiameter (s : State) (i : StandNo) : Bool :=
  decide ((s.stand i).dRun ≤ (s.runningGrade i).spliceDiameter)

/-- Entry to MATCHED and its three checks (R69). -/
def enterMatched (s : State) (i : StandNo) : State :=
  let s := s.enterState i .matched
  if (s.stand i).dancer.excursionRun = 3 then s.abort i .tension
  else if (s.stand i).ctx.early || s.atSpliceDiameter i then s.enterFireWait i
  else s

/-- The loop reports to the context that LOCKED has been set (R69). -/
def lockSet (s : State) (i : StandNo) : State :=
  if (s.stand i).ctx.state = .runUp then s.enterMatched i else s

/-- The loop reports to the context that LOCKED has been cleared (R70). -/
def lockCleared (s : State) (i : StandNo) : State :=
  match (s.stand i).ctx.state with
  | .matched | .fireWait | .fireSet =>
    ((s.modOut i fun o => { o with pasterAt := none }).modCtx i
      fun x => { x with missingTabAt := none }).enterState i .runUp
  | _ => s

/-- The tracker leaves TRACKING: FIRE_SET returns to FIRE_WAIT with the paster timer disarmed (R75). -/
def leaveFireSet (s : State) (i : StandNo) : State :=
  if (s.stand i).ctx.state = .fireSet then
    (s.modOut i fun o => { o with pasterAt := none }).enterState i .fireWait
  else s

/-- A runout announced to the context (R83, R87). -/
def announceRunout (s : State) (i : StandNo) : State :=
  match (s.stand i).ctx.state with
  | .runUp | .matched | .fireWait | .fireSet => s.abort i .runout
  | .watch | .noReel => s.writeOutcome i .runout
  | .off | .idle | .pasting | .cut | .stopping => s

/-- The runout check (R51). -/
def runoutCheck (s : State) (i : StandNo) : State :=
  let x := s.stand i
  let g := s.runningGrade i
  if x.running.isSome && !x.runoutFired && decide (x.dRun ≤ g.core + g.runoutMargin) then
    ((s.modStand i fun x => { x with runoutFired := true }).raise i .runout).announceRunout i
  else s

/-- D_fresh and its source for the stand's head reel at this moment (R53); none with no head. -/
def selectFresh (s : State) (i : StandNo) : Option (Nat × FreshSource) :=
  match s.head i with
  | none => none
  | some r =>
    let g := s.grade r.grade
    match r.diameter with
    | some d => some (d, .record)
    | none =>
      if (s.stand i).sensor.valid then
        some ((clampInt (g.spliceDiameter + 1000) 14000 (s.stand i).sensor.diameter).toNat, .sensor)
      else some (g.nominal, .nominal)

/-- Fix the splice's D_fresh and its source (R53). -/
def fixFresh (s : State) (i : StandNo) : State :=
  match s.selectFresh i with
  | none => s
  | some d => s.modStand i fun x => { x with dFresh := d.1, source := d.2 }

/-- Reset the loop at RUNUP entry from WATCH (R94): a pending drive order left over is discarded with DRIVE_FAULT. -/
def resetLoop (s : State) (i : StandNo) : State :=
  let left := s.port.waitingDrives.any fun d => d.stand == i
  let s := (s.modLoop i fun _ => { Loop.start with activity := .running }).killReferences i
  if left then
    (s.modPort fun p => { p with waitingDrives := p.waitingDrives.filter fun d => !(d.stand == i) }).raise i .driveFault
  else s

/-- Entry to RUNUP from WATCH (R67). -/
def enterRunUp (s : State) (i : StandNo) : State :=
  let s := s.enterState i .runUp
  let s := s.modCtx i fun x =>
    { x with vFire := 0, dRunFire := 0, eFire := 0, joint := 0, tailLong := false, tailShort := false, excursion := false }
  let s := (s.fixFresh i).resetLoop i
  (s.risePrewarn i).raise i .runUpStart

/-- The last five conditions of R65, as SPLICE NOW reads them too (R68). -/
def runUpAllowed (s : State) (i : StandNo) : Bool :=
  s.mode == .run && decide (500 ≤ (s.trackerOf i).v) && (s.trackerOf i).state == .tracking &&
    !(s.trackerOf i).lowWindow && !(s.stand i).freshCh.fault

/-- PASTE and KNIFE are forced off and their end timers disarmed (R115, R116, R120). -/
def forceOff (s : State) (i : StandNo) : State :=
  s.modOut i fun o => { o with paste := false, knife := false, pasteEndAt := none, knifeEndAt := none }

/-- The splice fails in PASTING with outcome FAILED_INTERLOCK (R79); PASTE is already off (R120). -/
def failInterlock (s : State) (i : StandNo) : State :=
  let s := (s.forceOff i).modOut i fun o => { o with knifeAt := none }
  let s := s.writeOutcome i .failedInterlock
  let s := (s.stopLoop i).queueDrive i .release
  let s := (s.enterState i .stopping).clearHeadReady i
  (s.setPrewarn i false).modCtx i fun x => { x with stoppingAt := some (after s.clock Config.stoppingDelay) }

/-- The records behind a head that leaves: the next becomes head with its ready mark clear (R22, R23). -/
def closeUp (q : List ReelRecord) : List ReelRecord := q.tail.modifyHead fun r => { r with ready := false }

/-- The swap at a SPLICED outcome, with the runout check that the installation makes (R22, R51). -/
def swap (s : State) (i : StandNo) : State :=
  (s.modStand i fun x =>
    { x with
      running := x.queue.head?.map fun r => ⟨r.id, r.grade⟩
      queue := closeUp x.queue
      dRun := x.dFresh
      measured := false
      runoutFired := false }).runoutCheck i

/-- The changes to the collections at a BREAK_SUSPECT outcome (R23). -/
def breakWeb (s : State) (i : StandNo) : State :=
  s.modStand i fun x => { x with running := none, queue := closeUp x.queue, measured := false }

/-- The exit from CUT at the end of the confirm window: the loop stops, PASTE and KNIFE are forced off, and the context
settles (R81, R94, R117). -/
def endSplice (s : State) (i : StandNo) : State := ((s.stopLoop i).forceOff i).enterRest i

/-! ### Control locks (R170) -/

/-- The taking of a request frame addressed to the part alone re-arms the expiry of every lock its sender holds. -/
def refreshLocks (s : State) (sender : Byte) : State :=
  s.mapStands fun _ x =>
    { x with lock := x.lock.map fun l =>
        if l.holder = sender then { l with expiry := after s.clock Config.lockDelay } else l }

/-! ### Positions (R39) -/

end State

/-- The extrapolated position of a tracker at local time `t` (R39). -/
def Tracker.position (k : Tracker) (t : Time) : Pos :=
  match k.state with
  | .none => 0
  | .lost => k.anchor
  | .acquiring | .tracking | .coasting => k.anchor + BitVec.ofNat 32 (k.v * elapsed k.anchorTime t / 100000)

end Machine

end Sys2Proof
end

