-- ==== Sys2Proof/Machine/Requests.lean ====
section
/-! DEFINITION. The request handler (chapter 9): the taking of the head frame, its checks and its reply, the requests that only read, and the frames that name no request. -/

namespace Sys2Proof

namespace Machine

/-- What a request comes to: the state after it, the result and the data of the reply. -/
structure Answer where
  state : State
  result : Result
  data : List Byte

/-- A request refused with a result and no data (R158). -/
def refuse (s : State) (r : Result) : Answer := ⟨s, r, []⟩

/-- A request taken with no data. -/
def grant (s : State) : Answer := ⟨s, .accepted, []⟩

namespace State

/-- The handler has a slot for a reply: one handed over, or a free one that no party waits for (R157). -/
def canReply (s : State) : Bool := s.port.handlerSlot || (s.hasFree && s.nobodyWaits)

/-- The head frame leaves the receive queue (R157). -/
def popFrame (s : State) : State := s.modPort fun p => { p with rx := p.rx.tail }

/-- The reply of a frame is placed in the handler's slot (R146, R157, R158). -/
def placeReply (s : State) (f : Frame) (r : Result) (data : List Byte) : State :=
  (s.modPort fun p => { p with handlerSlot := false }).place ⟨f.cls, f.sender, .reply f.verb r data, false, false⟩

/-- A slot handed to the handler that no reply takes is freed and offered on (R157). -/
def returnSlot (s : State) : State :=
  if s.port.handlerSlot then (s.modPort fun p => { p with handlerSlot := false }).offer else s

/-- Taking a frame that calls for a reply: the slot counts as occupied from now on, and the sender's locks are refreshed
(R146, R157, R170; log entry 14). -/
def takeFrame (s : State) (f : Frame) : State :=
  (s.popFrame.modPort fun p => { p with handlerSlot := true }).refreshLocks f.sender

/-- The handler takes the head frame when it is one of those that `takes` names and it can be answered (R157, R160). A
frame addressed to a group or to 255 is taken without a slot and gets no reply; `ask` requests are then discarded. A slot
handed over for it is freed at the taking. When the head frame is another, or must wait, nothing happens (log entries 2,
3). -/
def handle (s : State) (takes : Frame → Bool) (ask : Bool) (body : Frame → State → Answer) : State :=
  match s.port.rx with
  | [] => s
  | f :: _ =>
    if takes f then
      if f.individual then
        if s.canReply then
          let a := body f (s.takeFrame f)
          a.state.placeReply f a.result a.data
        else s
      else if ask then s.popFrame.returnSlot
      else (body f s.popFrame.returnSlot).state
    else s

end State

/-- The frame carries this verb. -/
def carries (v : Byte) (f : Frame) : Bool := f.verb == v

/-- The frame carries this verb and, at offset `k`, this code; a frame whose code byte is missing or names none of `codes`
is taken by any row of its verb (log entry 4). -/
def carriesCode (v : Byte) (k : Nat) (code : Nat) (codes : List Nat) (f : Frame) : Bool :=
  f.verb == v &&
    match f.payload[k]? with
    | none => true
    | some b => b.toNat == code || !codes.contains b.toNat

/-- The payload length check of R158: a payload shorter than required is refused BAD_VALUE. -/
def needLength (f : Frame) (n : Nat) (s : State) (k : Unit → Answer) : Answer :=
  if f.payload.length < n then refuse s .badValue else k ()

/-- The stand of a request, refused BAD_VALUE outside 1 to 6 (R2, R169). -/
def needStand (n : Nat) (s : State) (k : StandNo → Answer) : Answer :=
  match standOf n with
  | none => refuse s .badValue
  | some i => k i

/-- The control lock step of R169: free or held by the sender passes; held by another station is refused LOCKED with the
stand and the present holder. -/
def needLock (f : Frame) (i : StandNo) (s : State) (k : Unit → Answer) : Answer :=
  match (s.stand i).lock with
  | none => k ()
  | some l =>
    if l.holder = f.sender then k () else ⟨s, .locked, b1 (standNumber i) ++ [l.holder]⟩

/-! ### Reads (R24, R131, R139, R172) -/

/-- The holder byte of a stand's lock, 0 when it is free (R139). -/
def holderByte (x : Stand) : Byte :=
  match x.lock with
  | none => 0
  | some l => l.holder

/-- ASK STATUS: the data (R172, section 10.4). -/
def statusData (s : State) : List Byte :=
  b1 s.mode.code ++ [s.port.station] ++ b16 s.nextSeq ++
    allStands.flatMap fun i =>
      let x := s.stand i
      b1 x.ctx.state.code ++ [holderByte x] ++ b1 (flagBits [x.out.latch, !(x.events == 0)])

/-- ASK STAND: the data (R139, section 10.4). -/
def standData (s : State) (i : StandNo) : List Byte :=
  let x := s.stand i
  let k := if s.slotInUse x.record.webSlot then (s.trackerOf i).state else .none
  b1 (standNumber i) ++ b1 x.ctx.state.code ++
    b1 (flagBits [x.ctx.auto, x.loop.locked, x.loop.mode == .track, x.measured, x.out.latch]) ++
    b2 x.dRun ++ b2 x.vFresh ++ b1 k.code ++ b16 x.events ++ [holderByte x]

/-- ASK GRADE: the data (R24, section 10.4). -/
def gradeData (s : State) (g : Fin 32) : List Byte :=
  b1 g.val ++ b1 (s.grades[g]).isSome.toNat ++ gradeBytes (s.grade g)

/-- ASK QUEUE: the data (R24, section 10.4). -/
def queueData (s : State) (i : StandNo) : List Byte :=
  let x := s.stand i
  let g := match x.running with
    | some r => r.grade.val
    | none => 0
  b1 (standNumber i) ++ b1 (g + 32 * flagBits [x.running.isSome, x.measured]) ++ b4 (s.runningId i) ++ b2 x.dRun ++
    b1 x.queue.length ++ x.queue.flatMap reelBytes

/-- ASK LINE: the data (R24, section 10.4). -/
def lineData (s : State) : List Byte :=
  [s.line.lineMaster, s.line.reportStation] ++ b1 s.line.minSamples ++ b2 s.line.rateLimit ++ [s.port.station] ++
    b1 s.port.groups.length ++ s.port.groups

/-- ASK LOG's answer (R131). -/
def logAnswer (s : State) (n : SeqNo) : Answer :=
  let held := s.log.length
  let d := (s.nextSeq - n).toNat
  if d = 0 then refuse s .empty
  else if d ≤ held then
    match s.log.find? (fun r => r.seq == n) with
    | some r => ⟨s, .accepted, recordBytes r⟩
    | none => refuse s .badValue
  else
    match s.log with
    | [] => refuse s .badValue
    | r :: _ => if d ≤ 32768 then ⟨s, .gap, recordBytes r⟩ else refuse s .badValue

/-- ASK STATUS (R172). -/
def answerAskStatus (_f : Frame) (s : State) : Answer := ⟨s, .accepted, statusData s⟩

/-- ASK STAND (R139). -/
def answerAskStand (f : Frame) (s : State) : Answer :=
  needLength f 1 s fun _ => needStand (u8 f.payload 0) s fun i => ⟨s, .accepted, standData s i⟩

/-- ASK GRADE (R24). -/
def answerAskGrade (f : Frame) (s : State) : Answer :=
  needLength f 1 s fun _ =>
    match gradeOf (u8 f.payload 0) with
    | none => refuse s .badValue
    | some g => ⟨s, .accepted, gradeData s g⟩

/-- ASK QUEUE (R24). -/
def answerAskQueue (f : Frame) (s : State) : Answer :=
  needLength f 1 s fun _ => needStand (u8 f.payload 0) s fun i => ⟨s, .accepted, queueData s i⟩

/-- ASK LOG (R131). -/
def answerAskLog (f : Frame) (s : State) : Answer := needLength f 2 s fun _ => logAnswer s (w16 f.payload 0)

/-- ASK LINE (R24). -/
def answerAskLine (_f : Frame) (s : State) : Answer := ⟨s, .accepted, lineData s⟩

/-- A frame whose verb is assigned to nothing (R159). -/
def answerUnknown (_f : Frame) (s : State) : Answer := refuse s .unknownVerb

/-- ASK_STATUS (R172). -/
def execAskStatus (t : Time) (s : State) : StepOutcome :=
  .next ((s.setClock t).handle (carries verbAskStatus) true answerAskStatus)

/-- ASK_STAND (R139). -/
def execAskStand (t : Time) (s : State) : StepOutcome :=
  .next ((s.setClock t).handle (carries verbAskStand) true answerAskStand)

/-- ASK_GRADE (R24). -/
def execAskGrade (t : Time) (s : State) : StepOutcome :=
  .next ((s.setClock t).handle (carries verbAskGrade) true answerAskGrade)

/-- ASK_QUEUE (R24). -/
def execAskQueue (t : Time) (s : State) : StepOutcome :=
  .next ((s.setClock t).handle (carries verbAskQueue) true answerAskQueue)

/-- ASK_LOG (R131). -/
def execAskLog (t : Time) (s : State) : StepOutcome :=
  .next ((s.setClock t).handle (carries verbAskLog) true answerAskLog)

/-- ASK_LINE (R24). -/
def execAskLine (t : Time) (s : State) : StepOutcome :=
  .next ((s.setClock t).handle (carries verbAskLine) true answerAskLine)

/-- UNKNOWN_VERB (R159). -/
def execUnknownVerb (t : Time) (s : State) : StepOutcome :=
  .next ((s.setClock t).handle (fun f => unassignedVerb f.verb) false answerUnknown)

/-- A frame with a verb that the part itself sends is taken and discarded, without a slot (R157, R159). -/
def State.discardPartVerb (s : State) : State :=
  match s.port.rx with
  | [] => s
  | f :: _ => if partVerb f.verb then s.popFrame.returnSlot else s

/-- PART_VERB_DISCARDED (R159). -/
def execPartVerbDiscarded (t : Time) (s : State) : StepOutcome := .next (s.setClock t).discardPartVerb

end Machine

end Sys2Proof
end

