-- ==== Sys2Proof/Machine/Control.lean ====
section
/-! DEFINITION. Control locks and the clearing of latches (R123, R136, R166 to R170). -/

namespace Sys2Proof

namespace Machine

namespace State

/-- The data of a TAKE CONTROL or GIVE CONTROL reply for a stand: the stand and the holder after the request (R158). -/
def controlAnswer (s : State) (i : StandNo) (r : Result) : Answer :=
  ⟨s, r, b1 (standNumber i) ++ [holderByte (s.stand i)]⟩

/-- The refusal of a TAKE CONTROL or GIVE CONTROL that names no stand: the two bytes are there, their values are not stated
(free values, log entry 11). -/
def noStandAnswer (s : State) (f : Frame) : Answer :=
  let b := f.payload.headD Config.absentStand
  ⟨s, .badValue, [b, Config.holderOfNoStand b]⟩

/-- TAKE CONTROL for a stand (R167, R170). -/
def takeControl (s : State) (f : Frame) (i : StandNo) : Answer :=
  match (s.stand i).lock with
  | none =>
    (s.modStand i fun x => { x with lock := some ⟨f.sender, after s.clock Config.lockDelay⟩ }).controlAnswer i .accepted
  | some l => s.controlAnswer i (if l.holder = f.sender then .accepted else .locked)

/-- GIVE CONTROL for a stand (R168). -/
def giveControl (s : State) (f : Frame) (i : StandNo) : Answer :=
  match (s.stand i).lock with
  | none => s.controlAnswer i .accepted
  | some l =>
    if l.holder = f.sender then (s.modStand i fun x => { x with lock := none }).controlAnswer i .accepted
    else s.controlAnswer i .locked

/-- CLEAR LATCH with kind interlock, for a stand (R123). -/
def clearInterlock (s : State) (i : StandNo) : Answer :=
  let o := (s.stand i).out
  if o.latch then
    if o.guardOpen then refuse s .wrongState else grant (s.modOut i fun o => { o with latch := false })
  else grant s

/-- CLEAR LATCH with kind events, for a stand and these kind codes (R136, R173). -/
def clearMarks (s : State) (i : StandNo) (codes : List Nat) : Answer :=
  if codes.length ≤ 16 ∧ codes.all (fun k => decide (k < 16)) ∧ codes.Nodup then
    grant (s.modStand i fun x => { x with events := clearEvents x.events codes })
  else refuse s .badValue

/-- A held lock reaches its expiry (R170). -/
def lockEnds (s : State) (i : StandNo) : State :=
  s.modStand i fun x =>
    { x with lock := x.lock.bind fun l => if l.expiry = s.clock then none else some l }

end State

/-- TAKE CONTROL (R167). A frame addressed to the part alone has refreshed its sender's locks already (R170). -/
def answerTakeControl (f : Frame) (s : State) : Answer :=
  match f.payload with
  | [] => s.noStandAnswer f
  | b :: _ =>
    match standOf b.toNat with
    | none => s.noStandAnswer f
    | some i => s.takeControl f i

/-- GIVE CONTROL (R168). -/
def answerGiveControl (f : Frame) (s : State) : Answer :=
  match f.payload with
  | [] => s.noStandAnswer f
  | b :: _ =>
    match standOf b.toNat with
    | none => s.noStandAnswer f
    | some i => s.giveControl f i

/-- The CLEAR LATCH frames that the row of a kind code takes. -/
def takesLatch (code : Nat) (f : Frame) : Bool := carriesCode verbClearLatch 0 code [0, 1] f

/-- CLEAR LATCH with kind interlock (R123); a kind that names none is refused BAD_VALUE (R173). -/
def answerClearInterlock (f : Frame) (s : State) : Answer :=
  needLength f 2 s fun _ =>
    if u8 f.payload 0 = 0 then needStand (u8 f.payload 1) s fun i => s.clearInterlock i else refuse s .badValue

/-- The kind codes of a CLEAR LATCH with kind events (section 10.3). -/
def kindCodes (p : List Byte) : List Nat := ((p.drop 3).take (u8 p 2)).map BitVec.toNat

/-- CLEAR LATCH with kind events (R136); a kind that names none is refused BAD_VALUE (R173). -/
def answerClearEvents (f : Frame) (s : State) : Answer :=
  needLength f 2 s fun _ =>
    if u8 f.payload 0 = 1 then
      needLength f (3 + u8 f.payload 2) s fun _ =>
        needStand (u8 f.payload 1) s fun i => s.clearMarks i (kindCodes f.payload)
    else refuse s .badValue

/-- TAKE_CONTROL (R167). -/
def execTakeControl (t : Time) (s : State) : StepOutcome :=
  .next ((s.setClock t).handle (carries verbTakeControl) false answerTakeControl)

/-- GIVE_CONTROL (R168). -/
def execGiveControl (t : Time) (s : State) : StepOutcome :=
  .next ((s.setClock t).handle (carries verbGiveControl) false answerGiveControl)

/-- CLEAR_LATCH_INTERLOCK (R123). -/
def execClearLatchInterlock (t : Time) (s : State) : StepOutcome :=
  .next ((s.setClock t).handle (takesLatch 0) false answerClearInterlock)

/-- CLEAR_LATCH_EVENTS (R136). -/
def execClearLatchEvents (t : Time) (s : State) : StepOutcome :=
  .next ((s.setClock t).handle (takesLatch 1) false answerClearEvents)

/-- LOCK_EXPIRY (R170). -/
def execLockExpiry (t : Time) (i : StandNo) (s : State) : StepOutcome := .next ((s.setClock t).lockEnds i)

end Machine

end Sys2Proof
end

