-- ==== Sys2Proof/Machine/Modes.lean ====
section
/-! DEFINITION. The part mode (chapter 9): SET MODE, the LINE HOLD effect, and what a change of mode does to the contexts (R88 to R90, R161 to R165). -/

namespace Sys2Proof

namespace Machine

namespace State

/-- A stand record is valid: fields in range, and a drive station that is neither the line master station nor the part's own
(R6). -/
def recordValid (s : State) (r : StandRecord) : Bool :=
  standInRange r && !(r.driveStation == s.line.lineMaster) && !(r.driveStation == s.port.station)

/-- The check of a SET MODE RUN taken in CONFIG (R163). -/
def mayRun (s : State) : Bool :=
  !(s.line.lineMaster == 0) &&
    allStands.all fun i => !(s.stand i).record.enabled || s.recordValid (s.stand i).record

/-- The mode becomes RUN: every context settles (R89, R90, R163). -/
def goRun (s : State) (o : List StandNo) : State := forStands o (fun i s => s.settle i) { s with mode := .run }

/-- The mode changes from RUN to HOLD: splices before fire abort with HOLD, resting contexts settle (R89). -/
def goHold (s : State) (o : List StandNo) : State :=
  forStands o (fun i s => (s.abortBeforeFire i .hold).settle i) { s with mode := .hold }

/-- The mode becomes CONFIG: the locks are freed, every auto mark is cleared and every context settles (R90, R165). -/
def goConfig (s : State) (o : List StandNo) : State :=
  forStands o (fun i s => (s.modCtx i fun c => { c with auto := false }).settle i)
    ({ s with mode := .config }.mapStands fun _ x => { x with lock := none })

/-- The data of a SET MODE reply: the mode in force after the request (R158). -/
def modeAnswer (s : State) (r : Result) : Answer := ⟨s, r, b1 s.mode.code⟩

/-- SET MODE RUN (R162, R163). -/
def setModeRun (s : State) (o : List StandNo) : Answer :=
  match s.mode with
  | .config => if s.mayRun then (s.goRun o).modeAnswer .accepted else s.modeAnswer .badValue
  | .hold => (s.goRun o).modeAnswer .accepted
  | .run => s.modeAnswer .accepted

/-- SET MODE HOLD (R162). -/
def setModeHold (s : State) (o : List StandNo) : Answer :=
  match s.mode with
  | .run => (s.goHold o).modeAnswer .accepted
  | .hold => s.modeAnswer .accepted
  | .config => s.modeAnswer .wrongMode

/-- SET MODE CONFIG (R162, R165). -/
def setModeConfig (s : State) (o : List StandNo) : Answer :=
  match s.mode with
  | .config => s.modeAnswer .accepted
  | .run | .hold =>
    if allStands.all fun i => (s.stand i).ctx.state.resting then (s.goConfig o).modeAnswer .accepted
    else s.modeAnswer .wrongState

/-- A SET MODE frame whose mode byte is this mode's; a missing byte, or one that names no mode, is refused BAD_VALUE (R162,
R173). -/
def setMode (s : State) (f : Frame) (m : Mode) (k : Answer) : Answer :=
  if f.payload.head? = some (BitVec.ofNat 8 m.code) then k else s.modeAnswer .badValue

end State

/-- The SET MODE frames that the row of a mode takes. -/
def takesMode (m : Mode) (f : Frame) : Bool := carriesCode verbSetMode 0 m.code [0, 1, 2] f

/-- SET_MODE_RUN (R163). -/
def execSetModeRun (t : Time) (o : List StandNo) (s : State) : StepOutcome :=
  .next ((s.setClock t).handle (takesMode .run) false fun f s => s.setMode f .run (s.setModeRun o))

/-- SET_MODE_HOLD (R162). -/
def execSetModeHold (t : Time) (o : List StandNo) (s : State) : StepOutcome :=
  .next ((s.setClock t).handle (takesMode .hold) false fun f s => s.setMode f .hold (s.setModeHold o))

/-- SET_MODE_CONFIG (R165). -/
def execSetModeConfig (t : Time) (o : List StandNo) (s : State) : StepOutcome :=
  .next ((s.setClock t).handle (takesMode .config) false fun f s => s.setMode f .config (s.setModeConfig o))

end Machine

end Sys2Proof
end

