-- ==== Sys2Proof/Machine/Orders.lean ====
section
/-! DEFINITION. The stand orders (R63, R68, R82, R100). -/

namespace Sys2Proof

namespace Machine

namespace State

/-- STAND ORDER AUTO ON, outside CONFIG (R63). -/
def autoOn (s : State) (i : StandNo) : Answer :=
  if (s.stand i).ctx.state = .off then refuse s .wrongState
  else grant ((s.modCtx i fun c => { c with auto := true }).settle i)

/-- STAND ORDER AUTO OFF (R63). -/
def autoOff (s : State) (i : StandNo) : Answer :=
  if (s.stand i).ctx.state = .off then refuse s .wrongState
  else grant ((s.modCtx i fun c => { c with auto := false }).settle i)

/-- The EARLY mark is set (R68). -/
def setEarly (s : State) (i : StandNo) : State := s.modCtx i fun c => { c with early := true }

/-- STAND ORDER SPLICE NOW, in RUN (R68). -/
def spliceNow (s : State) (i : StandNo) : Answer :=
  match (s.stand i).ctx.state with
  | .watch => if s.runUpAllowed i then grant ((s.enterRunUp i).setEarly i) else refuse s .wrongState
  | .runUp => grant (s.setEarly i)
  | .matched => grant ((s.setEarly i).enterFireWait i)
  | .off | .idle | .noReel | .fireWait | .fireSet | .pasting | .cut | .stopping => refuse s .wrongState

/-- STAND ORDER ABORT (R82). -/
def abortOrder (s : State) (i : StandNo) : Answer :=
  match (s.stand i).ctx.state with
  | .runUp | .matched | .fireWait | .fireSet => grant (s.abort i .order)
  | .pasting | .cut => refuse s .tooLate
  | .off | .idle | .noReel | .watch | .stopping => refuse s .wrongState

/-- STAND ORDER MANUAL TRACK ON, in RUN (R100). -/
def manualOn (s : State) (i : StandNo) : Answer :=
  match (s.stand i).ctx.state with
  | .runUp | .matched =>
    grant (if (s.stand i).loop.manual then s else s.modLoop i fun l => { l with manual := true, mode := .track })
  | .off | .idle | .noReel | .watch | .fireWait | .fireSet | .pasting | .cut | .stopping => refuse s .wrongState

/-- STAND ORDER MANUAL TRACK OFF, in RUN (R100). -/
def manualOff (s : State) (i : StandNo) : Answer :=
  match (s.stand i).ctx.state with
  | .runUp | .matched =>
    grant (if (s.stand i).loop.manual then
        s.modLoop i fun l => { l with manual := false, mode := if l.locked then .track else .acquire }
      else s)
  | .off | .idle | .noReel | .watch | .fireWait | .fireSet | .pasting | .cut | .stopping => refuse s .wrongState

end State

/-- The STAND ORDER frames that the row of an order code takes. -/
def takesOrder (code : Nat) (f : Frame) : Bool := carriesCode verbStandOrder 1 code [1, 2, 3, 4, 5, 6] f

/-- The steps of a STAND ORDER before its own checks: payload length, the order value, the mode condition (R158, R169). -/
def orderSteps (f : Frame) (s : State) (code : Nat) (modeOk : Bool) (k : Unit → Answer) : Answer :=
  needLength f 2 s fun _ =>
    if u8 f.payload 1 = code then (if modeOk then k () else refuse s .wrongMode) else refuse s .badValue

/-- A STAND ORDER that needs the stand's control lock (R169). -/
def lockedOrder (code : Nat) (modeOk : State → Bool) (act : State → StandNo → Answer) (f : Frame) (s : State) : Answer :=
  orderSteps f s code (modeOk s) fun _ => needStand (u8 f.payload 0) s fun i => needLock f i s fun _ => act s i

/-- STAND ORDER ABORT reads no lock and has no mode condition (R82). -/
def answerAbort (f : Frame) (s : State) : Answer :=
  orderSteps f s 4 true fun _ => needStand (u8 f.payload 0) s fun i => s.abortOrder i

/-- STAND_ORDER_AUTO_ON (R63). -/
def execStandOrderAutoOn (t : Time) (s : State) : StepOutcome :=
  .next ((s.setClock t).handle (takesOrder 1) false (lockedOrder 1 (fun s => !(s.mode == .config)) State.autoOn))

/-- STAND_ORDER_AUTO_OFF (R63). -/
def execStandOrderAutoOff (t : Time) (s : State) : StepOutcome :=
  .next ((s.setClock t).handle (takesOrder 2) false (lockedOrder 2 (fun _ => true) State.autoOff))

/-- STAND_ORDER_SPLICE_NOW (R68). -/
def execStandOrderSpliceNow (t : Time) (s : State) : StepOutcome :=
  .next ((s.setClock t).handle (takesOrder 3) false (lockedOrder 3 (fun s => s.mode == .run) State.spliceNow))

/-- STAND_ORDER_ABORT (R82). -/
def execStandOrderAbort (t : Time) (s : State) : StepOutcome :=
  .next ((s.setClock t).handle (takesOrder 4) false answerAbort)

/-- STAND_ORDER_MANUAL_TRACK_ON (R100). -/
def execStandOrderManualTrackOn (t : Time) (s : State) : StepOutcome :=
  .next ((s.setClock t).handle (takesOrder 5) false (lockedOrder 5 (fun s => s.mode == .run) State.manualOn))

/-- STAND_ORDER_MANUAL_TRACK_OFF (R100). -/
def execStandOrderManualTrackOff (t : Time) (s : State) : StepOutcome :=
  .next ((s.setClock t).handle (takesOrder 6) false (lockedOrder 6 (fun s => s.mode == .run) State.manualOff))

end Machine

end Sys2Proof
end

