-- ==== Sys2Proof/Machine/Outputs.lean ====
section
/-! DEFINITION. The output unit (chapter 6): the ends of the pulses, the brake, the horn, and the guard input with its interlock latch. -/

namespace Sys2Proof

namespace Machine

/-- The paste-end timer expires (R115). -/
def Output.pasteEnds (o : Output) (now : Time) : Output :=
  if due o.pasteEndAt now then { o with paste := false, pasteEndAt := none } else o

/-- The knife-end timer expires (R116). -/
def Output.knifePulseEnds (o : Output) (now : Time) : Output :=
  if due o.knifeEndAt now then { o with knife := false, knifeEndAt := none } else o

/-- The brake-delay timer expires: BRAKE is asserted for the brake hold, in ms (R118). -/
def Output.brakeDelayEnds (o : Output) (now : Time) (hold : Nat) : Output :=
  if due o.brakeDelayAt now then
    { o with brakeDelayAt := none, brake := true, brakeHoldAt := some (after now (hold * 1000)) }
  else o

/-- The brake-hold timer expires (R118). -/
def Output.brakeHoldEnds (o : Output) (now : Time) : Output :=
  if due o.brakeHoldAt now then { o with brake := false, brakeHoldAt := none } else o

/-- A half period of the tone ends: the HORN line toggles (R125). -/
def Horn.halfEnds (h : Horn) (now : Time) : Horn :=
  if due h.halfAt now then { h with line := !h.line, halfAt := some (after now (halfPeriod h.pitch)) } else h

/-- A phase of the PREWARN pattern ends: the tone falls silent, or sounds again beginning asserted (R125, R126). -/
def Horn.phaseEnds (h : Horn) (now : Time) : Horn :=
  if due h.phaseAt now then
    if h.sounding then
      { h with
        sounding := false, halfAt := none, line := false
        phaseAt := some (after now Config.prewarnPhaseLength) }
    else
      { h with
        sounding := true, halfAt := some (after now (halfPeriod h.pitch)), line := true
        phaseAt := some (after now Config.prewarnPhaseLength) }
  else h

namespace State

/-- The report of a latch setting acts on the context by its state (R122). -/
def announceLatch (s : State) (i : StandNo) : State :=
  match (s.stand i).ctx.state with
  | .runUp | .matched | .fireWait | .fireSet => s.abort i .interlock
  | .pasting => s.failInterlock i
  | .off | .idle | .noReel | .watch | .cut | .stopping => s

/-- The guard input reads open now; a change from safe sets a clear latch (R120). -/
def guardOpens (s : State) (i : StandNo) : State :=
  let o := (s.stand i).out
  if o.guardOpen then s
  else if o.latch then s.modOut i fun o => { o with guardOpen := true }
  else
    let s1 := (s.modOut i fun o => { o with guardOpen := true, latch := true }).forceOff i
    (s1.raise i .interlock).announceLatch i

end State

/-- PASTE_END_EXPIRY (R115). -/
def execPasteEndExpiry (t : Time) (i : StandNo) (s : State) : StepOutcome :=
  .next ((s.setClock t).modOut i fun o => o.pasteEnds t)

/-- KNIFE_END_EXPIRY (R116). -/
def execKnifeEndExpiry (t : Time) (i : StandNo) (s : State) : StepOutcome :=
  .next ((s.setClock t).modOut i fun o => o.knifePulseEnds t)

/-- BRAKE_DELAY_EXPIRY (R118). -/
def execBrakeDelayExpiry (t : Time) (i : StandNo) (s : State) : StepOutcome :=
  .next ((s.setClock t).modOut i fun o => o.brakeDelayEnds t (s.stand i).record.brakeHold)

/-- BRAKE_HOLD_EXPIRY (R118). -/
def execBrakeHoldExpiry (t : Time) (i : StandNo) (s : State) : StepOutcome :=
  .next ((s.setClock t).modOut i fun o => o.brakeHoldEnds t)

/-- HORN_HALF_PERIOD (R125). -/
def execHornHalfPeriod (t : Time) (i : StandNo) (s : State) : StepOutcome :=
  .next ((s.setClock t).modOut i fun o => { o with horn := o.horn.halfEnds t })

/-- PREWARN_PHASE (R126). -/
def execPrewarnPhase (t : Time) (i : StandNo) (s : State) : StepOutcome :=
  .next ((s.setClock t).modOut i fun o => { o with horn := o.horn.phaseEnds t })

/-- GUARD_OPEN (R120). -/
def execGuardOpen (t : Time) (i : StandNo) (s : State) : StepOutcome := .next ((s.setClock t).guardOpens i)

/-- GUARD_SAFE (R120): the latch stays as it is. -/
def execGuardSafe (t : Time) (i : StandNo) (s : State) : StepOutcome :=
  .next ((s.setClock t).modOut i fun o => { o with guardOpen := false })

end Machine

end Sys2Proof
end

