-- ==== Sys2Proof/Machine/Tracking.lean ====
section
/-! DEFINITION. Web tracking (chapter 2): the processing of a line sample, its announcement to the stands, and the tracker timers. -/

namespace Sys2Proof

namespace Machine

/-- What a tracker makes of a line sample: nothing to announce (ignored or rejected), an anchor from NONE or LOST, a
re-acquire, or an accepted sample with its Δt (R29 to R35). -/
inductive SampleEvent where
  | silent
  | anchored
  | reacquired
  | accepted (dt : Nat)
  deriving DecidableEq, Repr

namespace Tracker

/-- The window count rises by one within its range 0 to 255 (R25, R30). -/
def counted (k : Tracker) : Nat := capNat 255 (k.windowCount + 1)

/-- The tracker takes the sample as its anchor in NONE or LOST (R30). -/
def anchorOn (k : Tracker) (n : Byte) (lt : Time) (p : Pos) (now : Time) : Tracker :=
  { k with
    state := .acquiring
    lastNumber := n
    lastLineTime := lt
    anchor := p
    anchorTime := now
    v := 0
    rejectRun := 0
    windowCount := k.counted
    coastingAt := none
    lostAt := some (after now Config.lostDelay)
    windowAt := if k.state = .none then some (after now Config.windowLength) else k.windowAt }

/-- A sample is rejected (R34): the reject run rises, or at the third rejection the tracker re-acquires. -/
def reject (k : Tracker) (n : Byte) (lt : Time) (p : Pos) (now : Time) : Tracker × SampleEvent :=
  if k.rejectRun + 1 < 3 then ({ k with rejectRun := k.rejectRun + 1 }, .silent)
  else
    ({ k with
        state := .acquiring
        lastNumber := n
        lastLineTime := lt
        anchor := p
        anchorTime := now
        rejectRun := 0
        windowCount := k.counted
        coastingAt := none
        lostAt := some (after now Config.lostDelay) }, .reacquired)

/-- A sample is accepted with this new V (R32, R33, R35). -/
def accept (k : Tracker) (n : Byte) (lt : Time) (p : Pos) (now : Time) (v : Int) (dt : Nat) : Tracker × SampleEvent :=
  ({ k with
      state := .tracking
      lastNumber := n
      lastLineTime := lt
      anchor := p
      anchorTime := now
      v := (clampInt 0 16000 v).toNat
      rejectRun := 0
      windowCount := k.counted
      coastingAt := some (after now Config.coastingDelay)
      lostAt := some (after now Config.lostDelay) }, .accepted dt)

/-- The speed measured between the last sample taken and this one, truncated toward zero (R31). -/
def measured (k : Tracker) (p : Pos) (dt : Nat) : Int := ((p - k.anchor).toInt * 100000).tdiv dt

/-- The plausibility limit (R33). -/
def limit (rate dt : Nat) : Nat := rate * dt / 1000000 + 50

/-- A sample that R29 passes is measured and judged (R31 to R33). -/
def measure (k : Tracker) (n : Byte) (lt : Time) (p : Pos) (now : Time) (rate : Nat) : Tracker × SampleEvent :=
  let dt := elapsed k.lastLineTime lt
  if dt < 1 ∨ 1000000 < dt then k.reject n lt p now
  else
    let vm := k.measured p dt
    if vm < 0 then k.reject n lt p now
    else if k.state = .acquiring then k.accept n lt p now vm dt
    else if limit rate dt < (vm - k.v).natAbs then k.reject n lt p now
    else k.accept n lt p now (k.v + (vm - k.v).tdiv 4) dt

/-- A tracker of a slot in use processes a line sample: number, line time, the slot's position, arrival local time; `rate`
is the press rate limit (R28 to R35). -/
def sample (k : Tracker) (n : Byte) (lt : Time) (p : Pos) (now : Time) (rate : Nat) : Tracker × SampleEvent :=
  match k.state with
  | .none | .lost => (k.anchorOn n lt p now, .anchored)
  | .acquiring | .tracking | .coasting =>
    let dn := (n - k.lastNumber).toNat
    if dn = 0 ∨ 128 ≤ dn then (k, .silent) else k.measure n lt p now rate

end Tracker

namespace State

/-- The web position of a slot in a line sample's payload (section 10.2). -/
def slotPosition (payload : List Byte) (k : SlotNo) : Pos := w32 payload (5 + 4 * k.val)

/-- What the tracker of a slot makes of a line sample arriving now; a slot not in use takes no sample (R26, R28). -/
def sampleSlot (s : State) (payload : List Byte) (k : SlotNo) : Tracker × SampleEvent :=
  if s.slotInUse k then
    (s.tracker k).sample (byteAt payload 0) (w32 payload 1) (slotPosition payload k) s.clock s.line.rateLimit
  else (s.tracker k, .silent)

/-- The prediction of a context in WATCH: L_rem in mm (R64). -/
def remainingLength (s : State) (i : StandNo) : Nat :=
  let g := s.runningGrade i
  let d := (s.stand i).dRun
  if g.spliceDiameter < d then
    quotient (355 * (d * d - g.spliceDiameter * g.spliceDiameter) * 10) (452 * g.caliper)
  else 0

/-- The prediction of a context in WATCH: t_start in ms (R64). -/
def startTime (s : State) (i : StandNo) (v : Nat) : Nat :=
  let g := s.headGrade i
  quotient (v * 1000) g.runUpRate + g.settleTime + (s.stand i).record.leadMargin

/-- The prediction and the decisions that hang on it (R64 to R66). -/
def predict (s : State) (i : StandNo) : State :=
  let v := (s.trackerOf i).v
  if v < 300 then s
  else
    let tRem := s.remainingLength i * 1000 / v
    let s := if tRem ≤ (s.stand i).record.warnTime then s.risePrewarn i else s
    if tRem ≤ s.startTime i v ∧ s.runUpAllowed i then s.enterRunUp i else s

/-- The reference update of a RUNNING loop at an accepted sample (R95). -/
def updateReference (s : State) (i : StandNo) (dt : Nat) : State :=
  let l := (s.stand i).loop
  let target : Int := (s.trackerOf i).v + l.correction
  let step : Int := (s.headGrade i).runUpRate * dt / 1000000
  let r := clampInt (l.reference - step) (l.reference + step) target
  s.placeReference i (clampInt 0 16000 r).toNat

/-- A stand's loop hears of a sample. `wasRunning` says that it was RUNNING before the sample was announced: the sample at
which the context enters RUNUP is not used by the loop (R94, R95). -/
def loopHears (s : State) (i : StandNo) (e : SampleEvent) (wasRunning : Bool) : State :=
  match e with
  | .accepted dt => if wasRunning && (s.stand i).loop.activity == .running then s.updateReference i dt else s
  | .silent | .anchored | .reacquired => s

/-- A stand's context hears of a sample: prediction in WATCH, SPEED_LOW before fire, and FIRE_SET left at a re-acquire
(R64, R83, R75). -/
def contextHears (s : State) (i : StandNo) (e : SampleEvent) : State :=
  match e with
  | .accepted _ =>
    if (s.stand i).ctx.state = .watch then s.predict i
    else if (s.trackerOf i).v < 500 then s.abortBeforeFire i .speedLow
    else s
  | .reacquired => s.leaveFireSet i
  | .silent | .anchored => s

/-- One matter of a line sample. -/
def hearMatter (before : State) (payload : List Byte) (m : Matter) (s : State) : State :=
  let e := (before.sampleSlot payload (before.stand m.stand).record.webSlot).2
  match m.user with
  | .loop => s.loopHears m.stand e ((before.stand m.stand).loop.activity == .running)
  | .context => s.contextHears m.stand e

end State

/-- The matters of a line sample, in the order taken when the command names none. -/
def allMatters : List Matter :=
  allStands.flatMap fun i => [⟨i, .loop⟩, ⟨i, .context⟩]

namespace State

/-- The trackers process a line sample, then the stands hear of it (R28, R35). -/
def takeSample (s : State) (payload : List Byte) (o : List Matter) : State :=
  let s1 := s.mapTrackers fun k _ => (s.sampleSlot payload k).1
  (wholeOrder allMatters o).foldl (fun s' m => hearMatter s payload m s') s1

/-- The stands that name a slot act on one of its announcements, in the order given (R26, R35; log entry 15). -/
def tellStands (s : State) (k : SlotNo) (o : List StandNo) (f : StandNo → State → State) : State :=
  forStands o (fun i s => if (s.stand i).record.webSlot = k then f i s else s) s

/-- The COASTING expiry (R36). -/
def coastingEnds (s : State) (k : SlotNo) (o : List StandNo) : State :=
  let x := s.tracker k
  if due x.coastingAt s.clock then
    if x.state = .tracking then
      (s.setTracker k { x with coastingAt := none, state := .coasting }).tellStands k o fun i s => s.leaveFireSet i
    else s.setTracker k { x with coastingAt := none }
  else s

/-- The LOST expiry (R37). -/
def lostEnds (s : State) (k : SlotNo) (o : List StandNo) : State :=
  let x := s.tracker k
  if due x.lostAt s.clock then
    match x.state with
    | .acquiring | .tracking | .coasting =>
      (s.setTracker k { x with lostAt := none, coastingAt := none, state := .lost, v := 0 }).tellStands k o
        fun i s => (s.raise i .trackLost).abortBeforeFire i .trackLost
    | .none | .lost => s.setTracker k { x with lostAt := none }
  else s

/-- The window close (R38). -/
def windowEnds (s : State) (k : SlotNo) (o : List StandNo) : State :=
  let x := s.tracker k
  if due x.windowAt s.clock then
    let low := decide (x.windowCount < s.line.minSamples)
    let s1 := s.setTracker k
      { x with windowAt := some (after s.clock Config.windowLength), windowCount := 0, lowWindow := low }
    if low && !x.lowWindow then s1.tellStands k o fun i s => s.raise i .samplesLow else s1
  else s

end State

/-- COASTING_EXPIRY (R36). -/
def execCoastingExpiry (t : Time) (k : SlotNo) (o : List StandNo) (s : State) : StepOutcome :=
  .next ((s.setClock t).coastingEnds k o)

/-- LOST_EXPIRY (R37). -/
def execLostExpiry (t : Time) (k : SlotNo) (o : List StandNo) (s : State) : StepOutcome :=
  .next ((s.setClock t).lostEnds k o)

/-- WINDOW_CLOSE (R38). -/
def execWindowClose (t : Time) (k : SlotNo) (o : List StandNo) (s : State) : StepOutcome :=
  .next ((s.setClock t).windowEnds k o)

end Machine

end Sys2Proof
end

