-- ==== Sys2Proof/Machine/Port.lean ====
section
/-! DEFINITION. The Quire port (chapter 8): the bus state, the judging of headers and payloads, the frames passed on as they arrive, and the sending of transmit queue entries with their outcomes. -/

namespace Sys2Proof

namespace Machine

/-- The outcomes of a begun entry that has won arbitration (R147). -/
inductive TxOutcome where
  | sent
  | noAck
  | busError
  deriving DecidableEq, Repr

/-- The outcome that the line gives a frame (R147). For a group target or 255 the slots are not read as acknowledges. -/
def Frame.outcome (f : Frame) : LineEnd → TxOutcome
  | .bitError _ _ => .busError
  | .ended h p => if f.individual && !(h && p) then .noAck else .sent

/-- The levels that the part reads after its start mark when its frame ends so: a bit error is the last bit read (R147). -/
def Frame.readBack (f : Frame) : LineEnd → List Bool
  | .bitError h n => (f.readBits h false).take n ++ [!((f.readBits h false).getD n true)]
  | .ended h p => f.readBits h p

/-- The frame can end so: a bit error lies past the contest, outside the acknowledge slots and before the frame's end
(R145, R147). -/
def Frame.mayEnd (f : Frame) : LineEnd → Bool
  | .bitError h n => decide (9 ≤ n) && decide (n ≠ 45) && decide (n + 1 < (f.readBits h false).length)
  | .ended _ _ => true

namespace State

/-! ### Reading a frame (R150 to R153) -/

/-- A target number is the part's (R150). -/
def forPart (s : State) (target : Byte) : Bool :=
  target == s.port.station || s.port.groups.contains target || target == 255

/-- The sender is the line master station, and that station is not 0 (R150). -/
def fromLineMaster (s : State) (sender : Byte) : Bool := sender == s.line.lineMaster && !(s.line.lineMaster == 0)

/-- The header is not ignored, its check being good (R150). -/
def headerAccepted (s : State) (h : Header) : Bool :=
  decide (h.length.toNat ≤ 40) && individualStation h.sender && !(h.sender == s.port.station) && s.forPart h.target &&
    (!(arrivalVerb h.verb) || s.fromLineMaster h.sender)

/-- A reservation of a receive queue place is held (R151). -/
def reserved (s : State) : Bool :=
  match s.port.reading with
  | .request _ r => r
  | .none | .header | .onArrival _ => false

/-- The receive queue's fill (R151). -/
def rxFill (s : State) : Nat := s.port.rx.length + s.reserved.toNat

/-- The acknowledge decision for a class (R151). -/
def admits (s : State) (c : FrameClass) : Bool :=
  decide (s.rxFill < Config.rxCapacity) && (c == .urgent || decide (s.rxFill < Config.rxCritical))

/-- What the port goes on reading after a header with a good check that is not ignored, and whether it drives the header
slot: an on-arrival frame (R153), or a request frame by the acknowledge decision (R151). -/
def followHeader (s : State) (h : Header) : Reading × Bool :=
  if arrivalVerb h.verb then (.onArrival h, toOneStation h)
  else if s.admits h.cls then (.request h true, toOneStation h)
  else if toOneStation h then (.none, false)
  else (.request h false, false)

/-- The header check cell of the frame being read ends (R150, R151). -/
def headerEnds (s : State) (h : Header) (check : Byte) : State :=
  if s.port.reading = .header then
    let r := if check = headerCheck h ∧ s.headerAccepted h then s.followHeader h else (.none, false)
    s.modPort fun p =>
      { p with
        reading := r.1
        headerAck := r.2
        payloadAck := false
        runs := LineRuns.atStartMark.read (headerBits h check) }
  else s

/-- The payload cells and the payload check cell have been read, after the header slot: dominant where the part drove it
(R140, R141). -/
def readPayload (s : State) (payload : List Byte) (check : Byte) : State :=
  s.modPort fun p =>
    { p with
      reading := .none
      payloadAck := false
      runs := p.runs.read ((!p.headerAck) :: cells (!p.headerAck) (payload ++ [check])) }

/-- The payload check cell of a request frame ends (R152). A frame that holds no reservation is dropped (R151, R156). -/
def requestEnds (s : State) (payload : List Byte) (check : Byte) : State :=
  match s.port.reading with
  | .request h r =>
    if payload.length = h.length.toNat then
      if r && check == crcBytes payload then
        (s.readPayload payload check).modPort fun p =>
          { p with payloadAck := toOneStation h, rx := p.rx ++ [frameOf h payload] }
      else s.readPayload payload check
    else s
  | .none | .header | .onArrival _ => s

/-- The payload check cell of an on-arrival frame of this verb ends; a good check hands the frame on (R153). With no such
frame being read, as while the part sends, nothing happens (log entries 2, 23). -/
def arrivalEnds (s : State) (verb : Byte) (payload : List Byte) (check : Byte) (handOn : Header → State → State) : State :=
  match s.port.reading with
  | .onArrival h =>
    if h.verb = verb ∧ payload.length = h.length.toNat then
      if check = crcBytes payload then
        handOn h ((s.readPayload payload check).modPort fun p => { p with payloadAck := toOneStation h })
      else s.readPayload payload check
    else s
  | .none | .header | .request _ _ => s

/-- A line sample is handed to the trackers, judged against the line master station as it now stands, with a payload of at
least 29 bytes (R27, R10; log entry 20). -/
def handSample (payload : List Byte) (o : List Matter) (h : Header) (s : State) : State :=
  if s.fromLineMaster h.sender ∧ 29 ≤ payload.length then s.takeSample payload o else s

/-- A LINE HOLD is handed to the request handler (R164): it acts in RUN only. -/
def handHold (o : List StandNo) (_h : Header) (s : State) : State :=
  match s.mode with
  | .run => s.goHold o
  | .hold | .config => s

/-- The frame being read is abandoned at a framing error, its last bit being a change bit equal to the bit before it
(R150): its reservation is released and nothing is acknowledged. A threshold passed over on the way has no effect (log
entry 25). -/
def abandonFrame (s : State) (line : List Bool) : State :=
  let r := s.port.runs.read line
  if s.port.reading = .none ∨ r.repeated = false then s
  else s.modPort fun p => { p with reading := .none, payloadAck := false, runs := r }

/-! ### Bus state (R143, R144) -/

/-- The end of 11 consecutive recessive bit times (R143). It cannot come while the part has a frame on the line. A
threshold passed over on the way, as of a dominant run of 251, has no effect (log entry 25). -/
def becomesIdle (s : State) (line : List Bool) : State :=
  let r := s.port.runs.read line
  if s.port.bus = .idle ∨ s.port.sending.isSome ∨ r.recessive ≠ 11 then s
  else s.modPort fun p => { p with bus := .idle, runs := r, reading := .none }

/-- A start mark that another station drives is read in IDLE (R143, R150). -/
def startsReading (s : State) : State :=
  if s.port.bus = .idle then
    s.modPort fun p => { p with bus := .busy, runs := p.runs.read [false], reading := .header }
  else s

/-- The entry to STUCK: the dominant run passes 250 bit times (R144). It cannot come while the part has a frame on the
line. A threshold passed over on the way has no effect (log entry 25). -/
def entersStuck (s : State) (line : List Bool) (o : List StandNo) : State :=
  let r := s.port.runs.read line
  if s.port.bus = .stuck ∨ s.port.sending.isSome ∨ r.dominant ≠ 251 then s
  else
    forStands o (fun i s => s.abortBeforeFire i .driveFault)
      (s.modPort fun p => { p with bus := .stuck, runs := r, reading := .none, payloadAck := false })

/-! ### Sending (R145 to R149) -/

end State

/-- The entry that the arbiter chooses: the oldest urgent one not begun, else the oldest one not begun (R146). -/
def chosenEntry (tx : List TxEntry) : Option TxEntry :=
  (tx.find? fun e => !e.begun && e.cls == .urgent).or (tx.find? fun e => !e.begun)

/-- Mark the first entry equal to `e` as begun. -/
def beginEntry (e : TxEntry) : List TxEntry → List TxEntry
  | [] => []
  | x :: rest => if x = e then { x with begun := true } :: rest else x :: beginEntry e rest

/-- The begun entry of a transmit queue. -/
def begunEntry (tx : List TxEntry) : Option TxEntry := tx.find? fun e => e.begun

/-- Every entry but the begun one. -/
def withoutBegun (tx : List TxEntry) : List TxEntry := tx.filter fun e => !e.begun

/-- Rewrite the begun entry. -/
def mapBegun (f : TxEntry → TxEntry) (tx : List TxEntry) : List TxEntry := tx.map fun e => if e.begun then f e else e

/-- The speed of the stand's REFERENCE entry that is not begun, if the queue holds one. -/
def waitingSpeed (i : StandNo) (tx : List TxEntry) : Option Nat :=
  tx.findSome? fun e =>
    match e.body with
    | .reference j v => if j = i ∧ !e.begun then some v else none
    | .handover _ _ | .release _ | .notice _ | .report _ _ _ | .reply _ _ _ => none

namespace State

/-- The part begins a frame in IDLE: it sends the start mark of the chosen entry, and the line settles its contest with
the stations that begin in the same bit time (R145). It reads no frame until its own ends or loses (R150), so no line
sample falls in between (the model's choice beside R96 and section 5.13; log entry 23). -/
def beginsFrame (s : State) (rivals : List Contestant) : State :=
  if s.port.bus = .idle ∧ s.port.sending = none then
    match chosenEntry s.port.tx with
    | none => s
    | some e =>
      s.modPort fun p =>
        { p with
          bus := .busy
          runs := p.runs.read [false]
          reading := .none
          sending := some ((e.frame p.station).contend rivals)
          tx := beginEntry e p.tx }
  else s

/-- The begun entry becomes an entry not begun again. -/
def unbegin (s : State) : State := s.modPort fun p => { p with tx := mapBegun (fun e => { e with begun := false }) p.tx }

/-- A begun REFERENCE of a stand has lost arbitration: withdrawn when its loop has stopped or been reset (R105); else it
takes the speed of a younger entry of its stand, which is withdrawn (R96). -/
def referenceLoses (s : State) (e : TxEntry) (i : StandNo) : State :=
  if e.dead then (s.modPort fun p => { p with tx := withoutBegun p.tx }).offer
  else
    match waitingSpeed i s.port.tx with
    | none => s.unbegin
    | some v =>
      ((s.modPort fun p =>
          { p with tx := (p.tx.filter fun e => e.begun || !(e.isReference i)).map fun e =>
              if e.begun then { e with body := .reference i v } else e }).unbegin).offer

/-- A begun stand report has lost arbitration: brought up to date when the stand's report-owed mark is set (R138). -/
def reportLoses (s : State) (i : StandNo) : State :=
  if s.port.owedReports.contains i then
    ((s.modPort fun p => { p with owedReports := p.owedReports.erase i }).unbegin).refreshReport i
  else s.unbegin

/-- The begun entry takes the loss of its contest by its kind (R145, R96, R105, R138). -/
def entryLoses (s : State) : State :=
  match begunEntry s.port.tx with
  | none => s
  | some e =>
    match e.body with
    | .reference i _ => s.referenceLoses e i
    | .report i _ _ => s.reportLoses i
    | .handover _ _ | .release _ | .notice _ | .reply _ _ _ => s.unbegin

/-- The part's frame loses the contest; the part reads the winner's (R145). A contest that the part has won is not lost. -/
def losesContest (s : State) : State :=
  match s.port.sending with
  | none => s
  | some x =>
    if x.won then s
    else (s.modPort fun p => { p with sending := none, reading := .header, runs := p.runs.read x.contest }).entryLoses

/-- The outcome of a REFERENCE reaches its loop (R101). -/
def referenceOutcome (s : State) (i : StandNo) (r : TxOutcome) : State :=
  match r with
  | .sent => s.modLoop i fun l => { l with noAckRun := 0 }
  | .noAck | .busError =>
    let n := (s.stand i).loop.noAckRun
    let s1 := s.modLoop i fun l => { l with noAckRun := capNat 3 (n + 1) }
    if n = 2 then (s1.raise i .driveFault).abortBeforeFire i .driveFault else s1

/-- The outcome of a HANDOVER or RELEASE reaches its loop (R102, R103). -/
def driveOutcome (s : State) (i : StandNo) (r : TxOutcome) : State :=
  match r with
  | .sent => s
  | .noAck | .busError => s.raise i .driveFault

/-- The outcome of a splice notice reaches the log (R134). -/
def noticeOutcome (s : State) (n : Notice) (r : TxOutcome) : State :=
  match r with
  | .sent => s
  | .noAck | .busError => s.markUnacked n.seq

/-- The outcome of an entry is handed to the block that placed it (R148). -/
def handOutcome (s : State) (e : TxEntry) (r : TxOutcome) : State :=
  match e.body with
  | .reference i _ =>
    if !e.dead && !((s.stand i).loop.activity == .stopped) then s.referenceOutcome i r else s
  | .handover i _ => s.driveOutcome i r
  | .release i => s.driveOutcome i r
  | .notice n => s.noticeOutcome n r
  | .report _ _ _ => s
  | .reply _ _ _ => s

/-- The begun entry has this outcome: it is handed over, then the slot is freed and offered (R148; log entry 19). An entry
that RESTART has removed gives its outcome to no block (R156). -/
def entryEnds (s : State) (r : TxOutcome) : State :=
  match begunEntry s.port.tx with
  | none => s
  | some x => ((s.handOutcome x r).modPort fun p => { p with tx := withoutBegun p.tx }).offer

/-- The part's frame, its contest won, ends with an outcome (R147, R148). -/
def frameEnds (s : State) (e : LineEnd) : State :=
  match s.port.sending with
  | none => s
  | some x =>
    if x.won && x.frame.mayEnd e then
      (s.modPort fun p => { p with sending := none, runs := p.runs.read (x.frame.readBack e) }).entryEnds
        (x.frame.outcome e)
    else s

end State

/-- HEADER_CHECK_END (R151). -/
def execHeaderCheckEnd (t : Time) (h : Header) (check : Byte) (s : State) : StepOutcome :=
  .next ((s.setClock t).headerEnds h check)

/-- REQUEST_FRAME (R152). -/
def execRequestFrame (t : Time) (payload : List Byte) (check : Byte) (s : State) : StepOutcome :=
  .next ((s.setClock t).requestEnds payload check)

/-- LINE_SAMPLE (R28). -/
def execLineSample (t : Time) (payload : List Byte) (check : Byte) (o : List Matter) (s : State) : StepOutcome :=
  .next ((s.setClock t).arrivalEnds verbLineSample payload check (State.handSample payload o))

/-- LINE_HOLD (R164). -/
def execLineHold (t : Time) (payload : List Byte) (check : Byte) (o : List StandNo) (s : State) : StepOutcome :=
  .next ((s.setClock t).arrivalEnds verbLineHold payload check (State.handHold o))

/-- RECEPTION_ABANDONED (R150). -/
def execReceptionAbandoned (m : LineMoment) (s : State) : StepOutcome := .next ((s.setClock m.t).abandonFrame m.line)

/-- BUS_IDLE (R143). -/
def execBusIdle (m : LineMoment) (s : State) : StepOutcome := .next ((s.setClock m.t).becomesIdle m.line)

/-- START_MARK_READ (R143). -/
def execStartMarkRead (t : Time) (s : State) : StepOutcome := .next (s.setClock t).startsReading

/-- STUCK (R144). -/
def execStuck (m : LineMoment) (o : List StandNo) (s : State) : StepOutcome :=
  .next ((s.setClock m.t).entersStuck m.line o)

/-- TRANSMIT_BEGIN (R145). -/
def execTransmitBegin (m : StartMoment) (s : State) : StepOutcome := .next ((s.setClock m.t).beginsFrame m.rivals)

/-- LOST_ARBITRATION (R145). -/
def execLostArbitration (t : Time) (s : State) : StepOutcome := .next (s.setClock t).losesContest

/-- TRANSMIT_OUTCOME (R148). -/
def execTransmitOutcome (t : Time) (e : LineEnd) (s : State) : StepOutcome := .next ((s.setClock t).frameEnds e)

end Machine

end Sys2Proof
end

