-- ==== Sys2Proof/Machine/Power.lean ====
section
/-! DEFINITION. Power-on (R155, R154, R124, R42) and RESTART (R171, R156). -/

namespace Sys2Proof

namespace Machine

/-- A stand after RESTART: table record, queue, running reel, D_run and its marks and the context's state kept; the latch
as its guard input stands; everything else at its starting value (R171, R42, R52 to R54, R60, R93, R107, R124, R135,
R166). -/
def Stand.restart (x : Stand) : Stand :=
  { x with
    runCh := PulseChannel.start x.runCh.input
    freshCh := PulseChannel.start x.freshCh.input
    vFresh := 0
    dFresh := 0
    source := .nominal
    dancer := ⟨0, false, 0⟩
    sensor := ⟨0, false, 0⟩
    ctx := { Context.start with state := x.ctx.state }
    loop := Loop.start
    out := Output.start x.out.guardOpen
    events := 0
    lock := none }

/-- A frame being read loses its reservation (R156). -/
def Reading.unreserved : Reading → Reading
  | .request h _ => .request h false
  | .none => .none
  | .header => .header
  | .onArrival h => .onArrival h

/-- The port after RESTART: both queues emptied, the reservation released and no party waiting; station number, group
list, bus state and dominant-run count kept, and the frame on the line goes on (R155, R156). -/
def Port.restart (p : Port) : Port :=
  { p with
    tx := []
    rx := []
    reading := p.reading.unreserved
    handlerSlot := false
    waitingDrives := []
    waitingNotices := []
    owedReports := [] }

/-- The notices standing in a transmit queue. -/
def noticesOf (tx : List TxEntry) : List Notice :=
  tx.filterMap fun e =>
    match e.body with
    | .notice n => some n
    | .reference _ _ | .handover _ _ | .release _ | .report _ _ _ | .reply _ _ _ => none

namespace State

/-- The effects of a taken RESTART (R171, R156, R134). -/
def restarted (s : State) : State :=
  let lost := noticesOf s.port.tx ++ s.port.waitingNotices
  let s1 := lost.foldl (fun s n => s.markUnacked n.seq) s
  ((({ s1 with scanNext := 0 }).mapStands fun _ x => x.restart).mapTrackers fun _ _ => Tracker.start).modPort Port.restart

/-- Power is applied with the pins at these levels: every block at its power-on values (R155, R154, R124, R42). The queue
of waiting commands is not part of the part, and stays. -/
def poweredOn (s : State) (pins : Pins) : State :=
  { State.reset with
    stands := #v[
      Stand.start pins.guardOpen[0] pins.runHigh[0] pins.freshHigh[0],
      Stand.start pins.guardOpen[1] pins.runHigh[1] pins.freshHigh[1],
      Stand.start pins.guardOpen[2] pins.runHigh[2] pins.freshHigh[2],
      Stand.start pins.guardOpen[3] pins.runHigh[3] pins.freshHigh[3],
      Stand.start pins.guardOpen[4] pins.runHigh[4] pins.freshHigh[4],
      Stand.start pins.guardOpen[5] pins.runHigh[5] pins.freshHigh[5]]
    port := Port.start pins.straps
    pending := s.pending }

end State

/-- RESTART, taken in CONFIG (R171). -/
def answerRestart (_f : Frame) (s : State) : Answer :=
  if s.mode = .config then grant s.restarted else refuse s .wrongMode

/-- POWER_ON (R155). -/
def execPowerOn (pins : Pins) (s : State) : StepOutcome := .next (s.poweredOn pins)

/-- RESTART (R171). -/
def execRestart (t : Time) (s : State) : StepOutcome :=
  .next ((s.setClock t).handle (carries verbRestart) false answerRestart)

end Machine

end Sys2Proof
end

