-- ==== Sys2Proof/Machine/Sensing.lean ====
section
/-! DEFINITION. Reel sensing (chapter 3): pulse channels, marks and periods, the running diameter, the fresh surface speed, the analog scan; and what a tab mark does to the loop and the context (chapters 4 and 5). -/

namespace Sys2Proof

namespace Machine

namespace PulseChannel

/-- A glitch on the channel (R43, R46): counted in STARTING and TURNING; from the eighth on the fault mark is set. -/
def glitch (c : PulseChannel) : PulseChannel :=
  match c.state with
  | .stopped => c
  | .starting | .turning =>
    if c.glitches + 1 < 8 then { c with glitches := c.glitches + 1 }
    else { c with glitches := c.glitches + 1, fault := true, validRun := 0 }

/-- The channel takes a mark as its first reference (R44). -/
def firstMark (c : PulseChannel) (now : Time) : PulseChannel :=
  { c with
    state := .starting
    lastMark := some now
    stoppedAt := some (after now Config.stoppedDelay)
    glitches := 0 }

/-- A period is rejected (R44, R46): the third in a row sets the fault mark. -/
def rejectPeriod (c : PulseChannel) : PulseChannel :=
  let n := capNat 3 (c.rejectRun + 1)
  { c with rejectRun := n, validRun := 0, fault := c.fault || decide (n = 3) }

/-- A period is valid (R44, R46): the third in a row clears the fault mark. -/
def validPeriod (c : PulseChannel) (now : Time) (p : Nat) : PulseChannel :=
  { c with
    state := .turning
    lastMark := some now
    lastPeriod := some p
    stoppedAt := some (after now Config.stoppedDelay)
    glitches := 0
    rejectRun := 0
    validRun := c.validRun + 1
    fault := c.fault && decide (c.validRun + 1 < 3) }

/-- A mark on the channel: the channel after it, and the period when it closed a valid one (R44). A period above
8,000,000 µs, which the stopped timer makes impossible, leaves the channel as it was (log entry 13). -/
def mark (c : PulseChannel) (now : Time) : PulseChannel × Option Nat :=
  match c.state, c.lastMark with
  | .stopped, _ => (c.firstMark now, none)
  | .starting, none => (c.firstMark now, none)
  | .turning, none => (c.firstMark now, none)
  | .starting, some m | .turning, some m =>
    let p := elapsed m now
    if p < Config.shortestPeriod then (c.rejectPeriod, none)
    else if p ≤ Config.stoppedDelay then (c.validPeriod now p, some p)
    else (c, none)

/-- The channel enters STOPPED (R45). -/
def stop (c : PulseChannel) : PulseChannel :=
  { c with
    state := .stopped
    lastMark := none
    lastPeriod := none
    stoppedAt := none
    glitches := 0
    rejectRun := 0
    validRun := 0
    fault := false }

end PulseChannel

/-- A channel of a stand. -/
def Stand.channel (x : Stand) : Channel → PulseChannel
  | .run => x.runCh
  | .fresh => x.freshCh

/-- Replace a channel of a stand. -/
def Stand.setChannel (x : Stand) (ch : Channel) (c : PulseChannel) : Stand :=
  match ch with
  | .run => { x with runCh := c }
  | .fresh => { x with freshCh := c }

namespace State

/-- Replace a pulse channel. -/
def setChannel (s : State) (i : StandNo) (ch : Channel) (c : PulseChannel) : State :=
  s.modStand i fun x => x.setChannel ch c

/-- A stand event that a disabled stand does not raise (R48). -/
def raiseEnabled (s : State) (i : StandNo) (k : EventKind) : State :=
  if (s.stand i).record.enabled then s.raise i k else s

/-- The channel becomes `c`; a rise of its fault mark raises SENSOR_FAULT and is announced to the context (R46, R83). -/
def updateChannel (s : State) (i : StandNo) (ch : Channel) (c : PulseChannel) : State :=
  let rose := c.fault && !((s.stand i).channel ch).fault
  let s1 := s.setChannel i ch c
  if rose then (s1.raiseEnabled i .sensorFault).abortBeforeFire i .sensorFault else s1

/-! ### The level of a pulse input (R43) -/

/-- The input of a channel changes to this level: a pending change begins, or ends as a glitch (R43). -/
def inputChanges (s : State) (i : StandNo) (ch : Channel) (high : Bool) : State :=
  let c := (s.stand i).channel ch
  if high = c.input then s
  else
    match c.change with
    | none =>
      s.setChannel i ch
        { c with
          input := high
          change := if high = c.accepted then none else some ⟨s.clock, (s.stand i).record.filterTime⟩ }
    | some _ =>
      let s1 := (s.setChannel i ch { c with input := high, change := none }).raiseEnabled i .noise
      s1.updateChannel i ch (((s1.stand i).channel ch).glitch)

/-! ### Users of a valid RUN period (R47) -/

/-- The new diameter of a valid RUN period (R50). -/
def periodDiameter (v p : Nat) : Nat := capNat 14000 (v * p * 113 / 35500000)

/-- The running diameter computation (R50). -/
def measureRunning (s : State) (i : StandNo) (p : Nat) : State :=
  let k := s.trackerOf i
  let x := s.stand i
  if (k.state = .tracking ∨ k.state = .coasting) ∧ 300 ≤ k.v ∧ !x.runCh.fault then
    let d := periodDiameter k.v p
    if x.measured ∧ x.dRun + 200 < d then s.modStand i fun x => { x with measured := false }
    else s.modStand i fun x => { x with dRun := d, measured := true }
  else s.modStand i fun x => { x with measured := false }

/-- A valid RUN period: the running diameter, the runout check, then the context's check in MATCHED (R47, R69). -/
def runPeriod (s : State) (i : StandNo) (p : Nat) : State :=
  let s := (s.measureRunning i p).runoutCheck i
  if (s.stand i).ctx.state = .matched ∧ s.atSpliceDiameter i then s.enterFireWait i else s

/-! ### Users of a valid FRESH period (R47) -/

/-- The surface speed of a reel of diameter `d` with period `p` (R52). -/
def surfaceSpeed (d p : Nat) : Nat := capNat 16000 (d * 35500000 / (113 * p))

/-- The fresh surface speed is recomputed (R52). -/
def measureFresh (s : State) (i : StandNo) (p : Nat) : State :=
  let v :=
    if (s.stand i).ctx.state.splicing then surfaceSpeed (s.stand i).dFresh p
    else
      match s.selectFresh i with
      | none => 0
      | some d => surfaceSpeed d.1 p
  s.modStand i fun x => { x with vFresh := v }

/-- The correction after a tab mark (R97, step 2). -/
def corrected (l : Loop) (g : GradeRecord) (e : Int) : Int :=
  clampInt (-g.correctionLimit) g.correctionLimit
    (l.correction + match l.mode with
      | .acquire => e.tdiv 2
      | .track => e.tdiv 16)

/-- The unlock of a loop (R99). -/
def unlock (s : State) (i : StandNo) : State :=
  let was := (s.stand i).loop.locked
  let s1 := s.modLoop i fun l =>
    { l with lockCount := 0, locked := false, mode := if l.manual then .track else .acquire }
  if was then s1.lockCleared i else s1

/-- The lock detector (R98). -/
def detectLock (s : State) (i : StandNo) (e : Int) : State :=
  let g := s.headGrade i
  let l := (s.stand i).loop
  if e.natAbs ≤ g.lockBand then
    let n := capNat g.lockCount (l.lockCount + 1)
    let s1 := s.modLoop i fun l => { l with lockCount := n }
    if g.lockCount ≤ n ∧ !l.locked then
      ((s1.modLoop i fun l => { l with locked := true, mode := .track }).raise i .locked).lockSet i
    else s1
  else s.modLoop i fun l => { l with lockCount := 0 }

/-- The loop's matter of a tab mark (R97). -/
def loopTab (s : State) (i : StandNo) : State :=
  let l := (s.stand i).loop
  if l.activity = .running then
    let g := s.headGrade i
    let e : Int := ((s.trackerOf i).v : Int) - (s.stand i).vFresh
    let s1 := s.modLoop i fun l => { l with correction := corrected l g e }
    if l.mode = .track ∧ 3 * g.lockBand < e.natAbs then s1.unlock i else s1.detectLock i e
  else s

/-- The tab offset in force for the head reel (R109, R12). -/
def tabOffset (s : State) (i : StandNo) : Nat :=
  match s.head i with
  | some r => r.tab.getD (s.grade r.grade).defaultTab
  | none => 0

/-- The paster delay for a tab mark of period `p` (R109). -/
def pasterDelay (s : State) (i : StandNo) (p : Nat) : Nat :=
  let r := (s.stand i).record
  let a := (r.sensorToNip + s.tabOffset i) % 1000
  let u := a * p / 1000
  (((u : Int) - r.pasterLatency) % p).toNat

/-- The paster timer is armed from this mark (R110). -/
def armPaster (s : State) (i : StandNo) (p : Nat) : State :=
  let d := s.pasterDelay i p
  s.modOut i fun o => { o with pasterAt := some (after s.clock d) }

/-- The arming conditions at a tab mark in FIRE_WAIT (R73). -/
def mayArm (s : State) (i : StandNo) : Bool :=
  (s.stand i).loop.locked && (s.trackerOf i).state == .tracking && !(s.stand i).out.latch &&
    decide (500 ≤ (s.trackerOf i).v)

/-- The context's matter of a tab mark of period `p` (R72 to R74). -/
def contextTab (s : State) (i : StandNo) (p : Nat) : State :=
  match (s.stand i).ctx.state with
  | .fireWait =>
    let s1 := s.modCtx i fun x => { x with missingTabAt := some (after s.clock (3 * p)) }
    if s1.mayArm i then (s1.armPaster i p).enterState i .fireSet else s1
  | .fireSet => (s.modCtx i fun x => { x with missingTabAt := some (after s.clock (3 * p)) }).armPaster i p
  | _ => s

/-- A valid FRESH period: V_f, then the loop's and the context's matters in the order given (R47, R70). -/
def freshPeriod (s : State) (i : StandNo) (p : Nat) (loopFirst : Bool) : State :=
  let s := s.measureFresh i p
  if loopFirst then (s.loopTab i).contextTab i p else (s.contextTab i p).loopTab i

/-! ### Acceptance of a change (R43, R44, R47) -/

/-- A valid period is handed on, unless the stand is disabled (R47, R48). -/
def handOn (s : State) (i : StandNo) (ch : Channel) (p : Nat) (loopFirst : Bool) : State :=
  if (s.stand i).record.enabled then
    match ch with
    | .run => s.runPeriod i p
    | .fresh => s.freshPeriod i p loopFirst
  else s

/-- A pending change that has held for its filter time is accepted; a rising one is a mark (R43, R44). -/
def changeHolds (s : State) (i : StandNo) (ch : Channel) (loopFirst : Bool) : State :=
  let c := (s.stand i).channel ch
  match c.change with
  | none => s
  | some g =>
    if after g.since g.filter = s.clock then
      let c1 := { c with accepted := !c.accepted, change := none }
      if c1.accepted then
        let m := c1.mark s.clock
        let s1 := s.updateChannel i ch m.1
        match m.2 with
        | some p => s1.handOn i ch p loopFirst
        | none => s1
      else s.setChannel i ch c1
    else s

/-- The context hears that the FRESH channel has stopped (R72, R85). -/
def freshStopped (s : State) (i : StandNo) : State :=
  match (s.stand i).ctx.state with
  | .fireWait | .fireSet => s.abort i .noTab
  | .stopping => (s.modCtx i fun x => { x with stoppingAt := none }).enterRest i
  | _ => s

/-- The stopped timer of a channel expires (R45). -/
def channelStops (s : State) (i : StandNo) (ch : Channel) : State :=
  let c := (s.stand i).channel ch
  if due c.stoppedAt s.clock then
    let s1 := s.setChannel i ch c.stop
    match ch with
    | .run => s1
    | .fresh => (s1.modStand i fun x => { x with vFresh := 0 }).freshStopped i
  else s

/-! ### Analog scan (R54 to R58) -/

/-- The code lies within 16 to 4,079 (R55). -/
def codeValid (code : BitVec 12) : Bool := within 16 4079 code.toNat

/-- D_sensor for a code (R56). -/
def sensorDiameter (r : StandRecord) (code : BitVec 12) : Nat :=
  (clampInt 0 14000 (r.sensorZero + ((code.toNat : Int) * r.sensorSlope).tdiv 1000)).toNat

/-- A diameter-sensor conversion (R55, R56). -/
def convertSensor (s : State) (i : StandNo) (code : BitVec 12) : State :=
  s.modStand i fun x => { x with sensor := ⟨code, codeValid code, sensorDiameter x.record code⟩ }

/-- A dancer excursion announced to the context (R71, R78). -/
def announceExcursion (s : State) (i : StandNo) : State :=
  match (s.stand i).ctx.state with
  | .matched | .fireWait | .fireSet => s.abort i .tension
  | .pasting | .cut => s.modCtx i fun x => { x with excursion := true }
  | _ => s

/-- The code is inside the stand's dancer band (R57). -/
def insideBand (r : StandRecord) (code : BitVec 12) : Bool :=
  codeValid code && within r.dancerLow r.dancerHigh code.toNat

/-- A dancer conversion (R55, R57, R58). -/
def convertDancer (s : State) (i : StandNo) (code : BitVec 12) : State :=
  let x := s.stand i
  let run := if insideBand x.record code then 0 else capNat 3 (x.dancer.excursionRun + 1)
  let s1 := s.modStand i fun x => { x with dancer := ⟨code, codeValid code, run⟩ }
  if run = 3 ∧ x.dancer.excursionRun < 3 then s1.announceExcursion i else s1

/-- A conversion completes on the channel whose turn it is, and the round goes on (R54, R55). -/
def convert (s : State) (code : BitVec 12) : State :=
  let n := s.scanNext
  let s1 := { s with scanNext := n + 1 }
  if h : n.val < 6 then s1.convertDancer ⟨n.val, h⟩ code
  else s1.convertSensor ⟨n.val - 6, by omega⟩ code

end State

/-- PULSE_INPUT_CHANGE (R43). -/
def execPulseInputChange (t : Time) (i : StandNo) (ch : Channel) (high : Bool) (s : State) : StepOutcome :=
  .next ((s.setClock t).inputChanges i ch high)

/-- CHANGE_ACCEPTED (R43). -/
def execChangeAccepted (t : Time) (i : StandNo) (ch : Channel) (loopFirst : Bool) (s : State) : StepOutcome :=
  .next ((s.setClock t).changeHolds i ch loopFirst)

/-- STOPPED_TIMER_EXPIRY (R45). -/
def execStoppedTimerExpiry (t : Time) (i : StandNo) (ch : Channel) (s : State) : StepOutcome :=
  .next ((s.setClock t).channelStops i ch)

/-- CONVERSION_COMPLETION (R55). -/
def execConversionCompletion (t : Time) (code : BitVec 12) (s : State) : StepOutcome :=
  .next ((s.setClock t).convert code)

end Machine

end Sys2Proof
end

