-- ==== Sys2Proof/Machine/Sequence.lean ====
section
/-! DEFINITION. The timers of a splice (chapters 4 and 6): missing tab, paster, knife, confirm and stopping, with the joint position and the knife delay. -/

namespace Sys2Proof

namespace Machine

namespace State

/-- The joint position at a paster expiry now (R111). -/
def jointPosition (s : State) (i : StandNo) : Pos :=
  let k := s.trackerOf i
  k.position s.clock + BitVec.ofNat 32 (k.v * (s.stand i).record.pasterLatency / 100000)

/-- The knife delay before its clamp, in µs (R112). -/
def rawKnifeDelay (s : State) (i : StandNo) : Int :=
  let r := (s.stand i).record
  let travel := quotient (((s.headGrade i).tailLength + r.knifePath) * 1000000) (s.trackerOf i).v
  (r.pasterLatency : Int) + travel - r.knifeLatency

/-- The knife delay used (R112). -/
def knifeDelay (s : State) (i : StandNo) : Nat := (clampInt 0 1000000 (s.rawKnifeDelay i)).toNat

/-- The knife delay is computed: the knife timer is armed, the tail flags are handed over, and their events raised (R112 to
R114). -/
def setKnife (s : State) (i : StandNo) : State :=
  let d := s.rawKnifeDelay i
  let long := decide (d < 0)
  let short := decide (1000000 < d)
  let s1 := s.modOut i fun o => { o with knifeAt := some (after s.clock (s.knifeDelay i)) }
  let s2 := s1.modCtx i fun x => { x with tailLong := long, tailShort := short }
  if long then s2.raise i .tailLong else if short then s2.raise i .tailShort else s2

/-- The fire figures are taken (R76, step 2). -/
def takeFigures (s : State) (i : StandNo) : State :=
  let v := (s.trackerOf i).v
  let x := s.stand i
  s.modCtx i fun c =>
    { c with vFire := v, dRunFire := x.dRun, eFire := (v : Int) - x.vFresh, joint := s.jointPosition i }

/-- PASTE is asserted for the stand's paste hold (R115). -/
def assertPaste (s : State) (i : StandNo) : State :=
  let hold := (s.stand i).record.pasteHold
  s.modOut i fun o => { o with paste := true, pasteEndAt := some (after s.clock (hold * 1000)) }

/-- The paster fires (R76, R110). -/
def firePaster (s : State) (i : StandNo) : State :=
  let s := (s.enterState i .pasting).assertPaste i
  let s := (s.takeFigures i).setKnife i
  let s := s.modCtx i fun x => { x with missingTabAt := none, excursion := false }
  let s := s.modLoop i fun l => { l with activity := .frozen }
  (s.setPrewarn i false).raise i .fired

/-- The paster timer expires (R76). -/
def pasterEnds (s : State) (i : StandNo) : State :=
  let x := s.stand i
  if due x.out.pasterAt s.clock then
    let s1 := s.modOut i fun o => { o with pasterAt := none }
    if x.ctx.state = .fireSet then s1.firePaster i else s1
  else s

/-- KNIFE is asserted for the stand's knife pulse, unless the interlock latch is set (R114, R116). -/
def assertKnife (s : State) (i : StandNo) : State :=
  let x := s.stand i
  if x.out.latch then s
  else s.modOut i fun o => { o with knife := true, knifeEndAt := some (after s.clock (x.record.knifePulse * 1000)) }

/-- A brake cycle starts, over an earlier one still running (R118, R119). -/
def startBrake (s : State) (i : StandNo) : State :=
  let d := (s.stand i).record.brakeDelay
  s.modOut i fun o => { o with brakeDelayAt := some (after s.clock (d * 1000)), brakeHoldAt := none }

/-- The knife fires: the context enters CUT (R80). -/
def fireKnife (s : State) (i : StandNo) : State :=
  let s := ((s.enterState i .cut).assertKnife i).startBrake i
  let s := s.modCtx i fun x => { x with confirmAt := some (after s.clock Config.confirmDelay) }
  s.queueDrive i .handover

/-- The knife timer expires (R80). -/
def knifeEnds (s : State) (i : StandNo) : State :=
  let x := s.stand i
  if due x.out.knifeAt s.clock then
    let s1 := s.modOut i fun o => { o with knifeAt := none }
    if x.ctx.state = .pasting then s1.fireKnife i else s1
  else s

/-- The splice ends SPLICED (R81). -/
def endSpliced (s : State) (i : StandNo) : State :=
  ((((s.writeOutcome i .spliced).raise i .spliced).swap i)).endSplice i

/-- The splice ends BREAK_SUSPECT (R81). -/
def endBroken (s : State) (i : StandNo) : State :=
  let s := ((s.writeOutcome i .breakSuspect).raise i .breakSuspect).breakWeb i
  (s.modCtx i fun x => { x with auto := false }).endSplice i

/-- The confirm timer expires (R81). -/
def confirmEnds (s : State) (i : StandNo) : State :=
  let x := s.stand i
  if due x.ctx.confirmAt s.clock then
    let s1 := s.modCtx i fun c => { c with confirmAt := none }
    if x.ctx.state = .cut then
      if x.ctx.excursion then s1.endBroken i else s1.endSpliced i
    else s1
  else s

/-- The missing-tab timer expires (R72). -/
def missingTabEnds (s : State) (i : StandNo) : State :=
  let x := s.stand i
  if due x.ctx.missingTabAt s.clock then
    let s1 := s.modCtx i fun c => { c with missingTabAt := none }
    if x.ctx.state = .fireWait ∨ x.ctx.state = .fireSet then s1.abort i .noTab else s1
  else s

/-- The stopping timer expires (R85). -/
def stoppingEnds (s : State) (i : StandNo) : State :=
  let x := s.stand i
  if due x.ctx.stoppingAt s.clock then
    let s1 := s.modCtx i fun c => { c with stoppingAt := none }
    if x.ctx.state = .stopping then s1.enterRest i else s1
  else s

end State

/-- MISSING_TAB_EXPIRY (R72). -/
def execMissingTabExpiry (t : Time) (i : StandNo) (s : State) : StepOutcome := .next ((s.setClock t).missingTabEnds i)

/-- PASTER_TIMER_EXPIRY (R76). -/
def execPasterTimerExpiry (t : Time) (i : StandNo) (s : State) : StepOutcome := .next ((s.setClock t).pasterEnds i)

/-- KNIFE_TIMER_EXPIRY (R80). -/
def execKnifeTimerExpiry (t : Time) (i : StandNo) (s : State) : StepOutcome := .next ((s.setClock t).knifeEnds i)

/-- CONFIRM_TIMER_EXPIRY (R81). -/
def execConfirmTimerExpiry (t : Time) (i : StandNo) (s : State) : StepOutcome := .next ((s.setClock t).confirmEnds i)

/-- STOPPING_TIMER_EXPIRY (R85). -/
def execStoppingTimerExpiry (t : Time) (i : StandNo) (s : State) : StepOutcome := .next ((s.setClock t).stoppingEnds i)

end Machine

end Sys2Proof
end

