-- ==== Sys2Proof/Machine/Tables.lean ====
section
/-! DEFINITION. The table store's requests (chapter 1): grades, stands, line settings, groups, reel queues and running reels. -/

namespace Sys2Proof

namespace Machine

namespace State

/-- A stand in RUNUP through CUT has this grade as its running reel's or its head's (R5). -/
def gradeInUse (s : State) (g : Fin 32) : Bool :=
  allStands.any fun i =>
    (s.stand i).ctx.state.splicing &&
      ((s.stand i).running.any (fun r => r.grade == g) || (s.head i).any (fun r => r.grade == g))

/-- The reel id stands in some queue (R14). -/
def idInQueue (s : State) (id : ReelId) (i : StandNo) : Bool := (s.stand i).queue.any fun r => r.id == id

/-- The reel id is that of a stand's running reel (R14). -/
def idRunning (s : State) (id : ReelId) (i : StandNo) : Bool := (s.stand i).running.any fun r => r.id == id

/-- The reel id stands in a queue or a running reel record (R14). -/
def idKnown (s : State) (id : ReelId) : Bool := allStands.any fun i => s.idInQueue id i || s.idRunning id i

/-- The reel id stands somewhere, the stand's own running reel not counted (R19). -/
def idKnownBut (s : State) (id : ReelId) (i : StandNo) : Bool :=
  allStands.any fun j => s.idInQueue id j || (s.idRunning id j && !(j == i))

/-- The stand whose queue holds a reel id (R16). -/
def queueHolding (s : State) (id : ReelId) : Option StandNo := allStands.find? fun i => s.idInQueue id i

/-! ### Grades (R4, R5) -/

/-- PUT GRADE's checks and effect (R4, R5). -/
def putGrade (s : State) (g : Fin 32) (r : GradeRecord) : Answer :=
  if gradeInRange r then
    if s.gradeInUse g then refuse s .inUse else grant { s with grades := s.grades.set g (some r) }
  else refuse s .badValue

/-! ### Stands (R7, R8) -/

/-- A tracker after the set of slots in use may have changed: sent to NONE when its slot newly comes into use, its timers
disarmed when its slot leaves use (R26). -/
def retuneTracker (before now : Bool) (k : Tracker) : Tracker :=
  if now && !before then Tracker.start
  else if before && !now then { k with coastingAt := none, lostAt := none, windowAt := none }
  else k

/-- The effects of a taken PUT STAND (R8, R26, R62). -/
def replaceRecord (s : State) (i : StandNo) (r : StandRecord) : State :=
  let old := (s.stand i).record
  let s1 := s.modStand i fun x =>
    { x with record := r, measured := x.measured && r.webSlot == old.webSlot }
  let s2 := s1.mapTrackers fun k x => retuneTracker (s.slotInUse k) (s1.slotInUse k) x
  if r.enabled == old.enabled then s2
  else if r.enabled then s2.settle i
  else (s2.modCtx i fun c => { c with auto := false, prewarn := false }).settle i

/-- PUT STAND's checks and effect, for a record whose codes name something (R7). -/
def putStand (s : State) (i : StandNo) (r : StandRecord) : Answer :=
  if standInRange r then
    if (s.stand i).ctx.state.resting then grant (s.replaceRecord i r) else refuse s .inUse
  else refuse s .badValue

/-! ### Line settings and groups (R10, R11) -/

/-- PUT LINE's checks and effect in CONFIG (R10, R40). -/
def putLine (s : State) (l : LineSettings) : Answer :=
  if lineInRange l s.port.station then
    let s1 := { s with line := l }
    grant (if l.lineMaster = s.line.lineMaster then s1 else s1.mapTrackers fun _ _ => Tracker.start)
  else refuse s .badValue

/-- SET GROUPS' checks and effect in CONFIG (R11). -/
def setGroups (s : State) (n : Nat) (groups : List Byte) : Answer :=
  if n ≤ 4 ∧ groups.all groupNumber ∧ groups.Nodup then grant (s.modPort fun p => { p with groups := groups })
  else refuse s .badValue

/-! ### Reel queues (R15 to R17) -/

/-- ADD REEL's checks and effect (R15). -/
def addReel (s : State) (i : StandNo) (r : ReelRecord) : Answer :=
  match s.grades[r.grade] with
  | none => refuse s .badValue
  | some g =>
    if optionalWithin (g.spliceDiameter + 1000) 14000 r.diameter then
      if s.idKnown r.id then refuse s .duplicate
      else if (s.stand i).queue.length < Config.reelCapacity then
        grant ((s.modStand i fun x => { x with queue := x.queue ++ [r] }).settle i)
      else refuse s .full
    else refuse s .badValue

/-- A queue without the record of this id; the records behind it lose their ready marks (R16). -/
def withoutReel (id : ReelId) : List ReelRecord → List ReelRecord
  | [] => []
  | r :: rest => if r.id = id then rest.map fun x => { x with ready := false } else r :: withoutReel id rest

/-- The states in which the head cannot be dropped: RUNUP through STOPPING (R16). -/
def headHeld (c : CtxState) : Bool := c.splicing || c == .stopping

/-- DROP REEL's last check and its effect, for a stand whose queue holds the id (R16). -/
def dropReel (s : State) (i : StandNo) (id : ReelId) : Answer :=
  if (s.head i).any (fun r => r.id == id) && headHeld (s.stand i).ctx.state then refuse s .inUse
  else grant ((s.modStand i fun x => { x with queue := withoutReel id x.queue }).settle i)

/-- MARK READY's checks and effect (R17). -/
def markReady (s : State) (i : StandNo) (id : ReelId) : Answer :=
  if s.idInQueue id i then
    if (s.head i).any (fun r => r.id == id) && !((s.stand i).ctx.state == .stopping) then
      grant ((s.modStand i fun x =>
        { x with queue := x.queue.modifyHead fun r => { r with ready := true } }).settle i)
    else refuse s .wrongState
  else refuse s .badValue

/-! ### Running reels (R19, R20) -/

/-- The effect of installing a running reel with this diameter, with the runout check (R19, R51). -/
def installRunning (s : State) (i : StandNo) (r : RunningReel) (d : Nat) : State :=
  ((s.modStand i fun x =>
    { x with running := some r, dRun := d, measured := false, runoutFired := false }).runoutCheck i).settle i

/-- SET RUNNING with a nonzero reel id, for a grade number in range (R19). -/
def setRunning (s : State) (i : StandNo) (r : RunningReel) (diameter : Option Nat) : Answer :=
  match s.grades[r.grade] with
  | none => refuse s .badValue
  | some g =>
    if optionalWithin g.core 14000 diameter then
      if (s.stand i).ctx.state.resting then
        if s.idKnownBut r.id i then refuse s .duplicate
        else grant (s.installRunning i r (diameter.getD g.nominal))
      else refuse s .inUse
    else refuse s .badValue

/-- SET RUNNING with reel id 0 (R20). -/
def clearRunning (s : State) (i : StandNo) : Answer :=
  if (s.stand i).ctx.state.resting then
    grant ((s.modStand i fun x => { x with running := none, measured := false }).settle i)
  else refuse s .inUse

end State

/-! ### The requests -/

/-- PUT GRADE (R4). -/
def answerPutGrade (f : Frame) (s : State) : Answer :=
  needLength f 25 s fun _ =>
    match gradeOf (u8 f.payload 0) with
    | none => refuse s .badValue
    | some g => s.putGrade g (gradeOfPayload f.payload)

/-- PUT STAND (R7). -/
def answerPutStand (f : Frame) (s : State) : Answer :=
  needLength f 39 s fun _ => needStand (u8 f.payload 0) s fun i =>
    match standRecordOfPayload f.payload with
    | none => refuse s .badValue
    | some r => s.putStand i r

/-- PUT LINE (R10). -/
def answerPutLine (f : Frame) (s : State) : Answer :=
  needLength f 5 s fun _ =>
    if s.mode = .config then s.putLine (lineOfPayload f.payload) else refuse s .wrongMode

/-- SET GROUPS (R11, R173). -/
def answerSetGroups (f : Frame) (s : State) : Answer :=
  needLength f (1 + u8 f.payload 0) s fun _ =>
    if s.mode = .config then
      s.setGroups (u8 f.payload 0) ((f.payload.drop 1).take (u8 f.payload 0))
    else refuse s .wrongMode

/-- ADD REEL (R15, R169). -/
def answerAddReel (f : Frame) (s : State) : Answer :=
  needLength f 11 s fun _ => needStand (u8 f.payload 0) s fun i => needLock f i s fun _ =>
    let marks := byteAt f.payload 6
    let tab := optionalField (marks.getLsbD 1) (u16 f.payload 9)
    match gradeOf (u8 f.payload 5) with
    | none => refuse s .badValue
    | some g =>
      if w32 f.payload 1 ≠ 0 ∧ optionalWithin 0 999 tab then
        s.addReel i ⟨w32 f.payload 1, g, optionalField (marks.getLsbD 0) (u16 f.payload 7), tab, false⟩
      else refuse s .badValue

/-- DROP REEL (R16, R169): the id is looked up before the lock is read. -/
def answerDropReel (f : Frame) (s : State) : Answer :=
  needLength f 4 s fun _ =>
    let id := w32 f.payload 0
    if allStands.any fun i => s.idRunning id i then refuse s .wrongState
    else
      match s.queueHolding id with
      | none => refuse s .badValue
      | some i => needLock f i s fun _ => s.dropReel i id

/-- MARK READY (R17, R169). -/
def answerMarkReady (f : Frame) (s : State) : Answer :=
  needLength f 5 s fun _ => needStand (u8 f.payload 0) s fun i => needLock f i s fun _ =>
    s.markReady i (w32 f.payload 1)

/-- SET RUNNING (R19, R20, R169). -/
def answerSetRunning (f : Frame) (s : State) : Answer :=
  needLength f 9 s fun _ => needStand (u8 f.payload 0) s fun i => needLock f i s fun _ =>
    if w32 f.payload 1 = 0 then s.clearRunning i
    else
      match gradeOf (u8 f.payload 5) with
      | none => refuse s .badValue
      | some g =>
        s.setRunning i ⟨w32 f.payload 1, g⟩ (optionalField ((byteAt f.payload 6).getLsbD 0) (u16 f.payload 7))

/-- PUT_GRADE (R4). -/
def execPutGrade (t : Time) (s : State) : StepOutcome :=
  .next ((s.setClock t).handle (carries verbPutGrade) false answerPutGrade)

/-- PUT_STAND (R7). -/
def execPutStand (t : Time) (s : State) : StepOutcome :=
  .next ((s.setClock t).handle (carries verbPutStand) false answerPutStand)

/-- PUT_LINE (R10). -/
def execPutLine (t : Time) (s : State) : StepOutcome :=
  .next ((s.setClock t).handle (carries verbPutLine) false answerPutLine)

/-- SET_GROUPS (R11). -/
def execSetGroups (t : Time) (s : State) : StepOutcome :=
  .next ((s.setClock t).handle (carries verbSetGroups) false answerSetGroups)

/-- ADD_REEL (R15). -/
def execAddReel (t : Time) (s : State) : StepOutcome :=
  .next ((s.setClock t).handle (carries verbAddReel) false answerAddReel)

/-- DROP_REEL (R16). -/
def execDropReel (t : Time) (s : State) : StepOutcome :=
  .next ((s.setClock t).handle (carries verbDropReel) false answerDropReel)

/-- MARK_READY (R17). -/
def execMarkReady (t : Time) (s : State) : StepOutcome :=
  .next ((s.setClock t).handle (carries verbMarkReady) false answerMarkReady)

/-- SET_RUNNING (R19). -/
def execSetRunning (t : Time) (s : State) : StepOutcome :=
  .next ((s.setClock t).handle (carries verbSetRunning) false answerSetRunning)

end Machine

end Sys2Proof
end

