-- ==== Sys2Proof/Machine/Dispatch.lean ====
section
/-! DEFINITION. The meaning of each command: one arm per row of spec/opcode_table.json. -/

namespace Sys2Proof.Machine

/-- The effect of a command on everything but the queue of waiting commands. -/
def exec (i : Instr) (s : State) : Host.Outcome State Fault Refusal :=
  match i with
  | .powerOn pins => Sys2Proof.Machine.execPowerOn pins s
  | .askStatus t => Sys2Proof.Machine.execAskStatus t s
  | .askStand t => Sys2Proof.Machine.execAskStand t s
  | .askGrade t => Sys2Proof.Machine.execAskGrade t s
  | .askQueue t => Sys2Proof.Machine.execAskQueue t s
  | .askLog t => Sys2Proof.Machine.execAskLog t s
  | .askLine t => Sys2Proof.Machine.execAskLine t s
  | .putGrade t => Sys2Proof.Machine.execPutGrade t s
  | .putStand t => Sys2Proof.Machine.execPutStand t s
  | .putLine t => Sys2Proof.Machine.execPutLine t s
  | .setGroups t => Sys2Proof.Machine.execSetGroups t s
  | .addReel t => Sys2Proof.Machine.execAddReel t s
  | .dropReel t => Sys2Proof.Machine.execDropReel t s
  | .markReady t => Sys2Proof.Machine.execMarkReady t s
  | .setRunning t => Sys2Proof.Machine.execSetRunning t s
  | .setModeRun t o => Sys2Proof.Machine.execSetModeRun t o s
  | .setModeHold t o => Sys2Proof.Machine.execSetModeHold t o s
  | .setModeConfig t o => Sys2Proof.Machine.execSetModeConfig t o s
  | .standOrderAutoOn t => Sys2Proof.Machine.execStandOrderAutoOn t s
  | .standOrderAutoOff t => Sys2Proof.Machine.execStandOrderAutoOff t s
  | .standOrderSpliceNow t => Sys2Proof.Machine.execStandOrderSpliceNow t s
  | .standOrderAbort t => Sys2Proof.Machine.execStandOrderAbort t s
  | .standOrderManualTrackOn t => Sys2Proof.Machine.execStandOrderManualTrackOn t s
  | .standOrderManualTrackOff t => Sys2Proof.Machine.execStandOrderManualTrackOff t s
  | .takeControl t => Sys2Proof.Machine.execTakeControl t s
  | .giveControl t => Sys2Proof.Machine.execGiveControl t s
  | .clearLatchInterlock t => Sys2Proof.Machine.execClearLatchInterlock t s
  | .clearLatchEvents t => Sys2Proof.Machine.execClearLatchEvents t s
  | .restart t => Sys2Proof.Machine.execRestart t s
  | .unknownVerb t => Sys2Proof.Machine.execUnknownVerb t s
  | .partVerbDiscarded t => Sys2Proof.Machine.execPartVerbDiscarded t s
  | .lineHold t p c o => Sys2Proof.Machine.execLineHold t p c o s
  | .lineSample t p c o => Sys2Proof.Machine.execLineSample t p c o s
  | .coastingExpiry t k o => Sys2Proof.Machine.execCoastingExpiry t k o s
  | .lostExpiry t k o => Sys2Proof.Machine.execLostExpiry t k o s
  | .windowClose t k o => Sys2Proof.Machine.execWindowClose t k o s
  | .pulseInputChange t n ch high => Sys2Proof.Machine.execPulseInputChange t n ch high s
  | .changeAccepted t n ch first => Sys2Proof.Machine.execChangeAccepted t n ch first s
  | .stoppedTimerExpiry t n ch => Sys2Proof.Machine.execStoppedTimerExpiry t n ch s
  | .conversionCompletion t code => Sys2Proof.Machine.execConversionCompletion t code s
  | .guardOpen t n => Sys2Proof.Machine.execGuardOpen t n s
  | .guardSafe t n => Sys2Proof.Machine.execGuardSafe t n s
  | .missingTabExpiry t n => Sys2Proof.Machine.execMissingTabExpiry t n s
  | .pasterTimerExpiry t n => Sys2Proof.Machine.execPasterTimerExpiry t n s
  | .knifeTimerExpiry t n => Sys2Proof.Machine.execKnifeTimerExpiry t n s
  | .confirmTimerExpiry t n => Sys2Proof.Machine.execConfirmTimerExpiry t n s
  | .stoppingTimerExpiry t n => Sys2Proof.Machine.execStoppingTimerExpiry t n s
  | .pasteEndExpiry t n => Sys2Proof.Machine.execPasteEndExpiry t n s
  | .knifeEndExpiry t n => Sys2Proof.Machine.execKnifeEndExpiry t n s
  | .brakeDelayExpiry t n => Sys2Proof.Machine.execBrakeDelayExpiry t n s
  | .brakeHoldExpiry t n => Sys2Proof.Machine.execBrakeHoldExpiry t n s
  | .hornHalfPeriod t n => Sys2Proof.Machine.execHornHalfPeriod t n s
  | .prewarnPhase t n => Sys2Proof.Machine.execPrewarnPhase t n s
  | .lockExpiry t n => Sys2Proof.Machine.execLockExpiry t n s
  | .requestFrame t p c => Sys2Proof.Machine.execRequestFrame t p c s
  | .transmitBegin m => Sys2Proof.Machine.execTransmitBegin m s
  | .lostArbitration t => Sys2Proof.Machine.execLostArbitration t s
  | .transmitOutcome t e => Sys2Proof.Machine.execTransmitOutcome t e s
  | .busIdle m => Sys2Proof.Machine.execBusIdle m s
  | .stuck m o => Sys2Proof.Machine.execStuck m o s
  | .startMarkRead t => Sys2Proof.Machine.execStartMarkRead t s
  | .headerCheckEnd t h c => Sys2Proof.Machine.execHeaderCheckEnd t h c s
  | .receptionAbandoned m => Sys2Proof.Machine.execReceptionAbandoned m s

end Sys2Proof.Machine
end

