-- ==== Sys2Proof/Safety.lean ====
section
/-! DEFINITION. The laws that the manual says always hold of the part, as predicates of a state, and the vocabulary of the statements: what a request's taking and its reply do, and what a command of one stand leaves alone. -/

namespace Sys2Proof

namespace Machine

namespace State

/-! ### Capacities -/

/-- The transmit queue, with a slot handed to the request handler counted, holds at most 12 (R146); the receive queue, with
a reservation counted, at most 16 (R151); each reel queue at most 3 (R13). -/
def WithinCapacity (s : State) : Prop :=
  s.port.tx.length + s.port.handlerSlot.toNat ≤ 12 ∧ s.port.rx.length + s.reserved.toNat ≤ 16 ∧
    ∀ i, (s.stand i).queue.length ≤ 3

/-! ### Tables -/

/-- Every defined grade is in range (R4). -/
def GradesInRange (s : State) : Prop := ∀ g : Fin 32, ∀ r, s.grades[g] = some r → gradeInRange r = true

/-- Every enabled stand's record is in range (R6, R7). -/
def RecordsInRange (s : State) : Prop :=
  ∀ i, (s.stand i).record.enabled = true → standInRange (s.stand i).record = true

/-- The line settings lie in their ranges (R9, R10). -/
def LineInRange (s : State) : Prop :=
  s.line.lineMaster.toNat < 240 ∧ 1 ≤ s.line.minSamples ∧ s.line.minSamples ≤ 10 ∧
    500 ≤ s.line.rateLimit ∧ s.line.rateLimit ≤ 10000

/-- The group list holds 0 to 4 distinct numbers, each 240 to 254 (R11), and the station number is 1 to 239 (R154). -/
def AddressesInRange (s : State) : Prop :=
  s.port.groups.length ≤ 4 ∧ s.port.groups.Nodup ∧
    (∀ g ∈ s.port.groups, 240 ≤ g.toNat ∧ g.toNat ≤ 254) ∧
    1 ≤ s.port.station.toNat ∧ s.port.station.toNat ≤ 239

/-! ### Trackers -/

/-- Every tracker's V lies within 0 to 16,000 mm/s and its reject run within 0 to 2 (R25); a tracker in LOST has V 0
(R37). -/
def TrackersInRange (s : State) : Prop :=
  ∀ k, (s.tracker k).v ≤ 16000 ∧ (s.tracker k).rejectRun ≤ 2 ∧ ((s.tracker k).state = .lost → (s.tracker k).v = 0)

/-! ### Reels and contexts -/

/-- In every reel queue the ready mark stands on the head alone (R13). -/
def ReadyOnHeadAlone (s : State) : Prop := ∀ i, ∀ r ∈ (s.stand i).queue.tail, r.ready = false

/-- A context in a resting state is in the state that R61 gives; in CONFIG every context is OFF or IDLE (R90); from RUNUP
through CUT the stand has a head that carries the ready mark (R13); outside the resting states the stand is enabled (R7);
in OFF the auto mark is clear (R62, R63). -/
def ContextsLawful (s : State) : Prop :=
  ∀ i, ((s.stand i).ctx.state.resting = true → (s.stand i).ctx.state = s.restState i) ∧
    (s.mode = .config → (s.stand i).ctx.state = .off ∨ (s.stand i).ctx.state = .idle) ∧
    ((s.stand i).ctx.state.splicing = true → ∃ r, (s.stand i).queue.head? = some r ∧ r.ready = true) ∧
    ((s.stand i).ctx.state.resting = false → (s.stand i).record.enabled = true) ∧
    ((s.stand i).ctx.state = .off → (s.stand i).ctx.auto = false)

/-! ### Outputs -/

/-- PASTE and KNIFE are asserted only in PASTING or CUT (R117) and never with the interlock latch set (R121); the latch is
clear in FIRE_SET (R110). -/
def OutputsSafe (s : State) : Prop :=
  ∀ i, ((s.stand i).out.paste = true ∨ (s.stand i).out.knife = true →
      (s.stand i).ctx.state.pastFire = true ∧ (s.stand i).out.latch = false) ∧
    ((s.stand i).ctx.state = .fireSet → (s.stand i).out.latch = false)

/-! ### Splice log -/

/-- The ring holds at most 48 records, whose sequence numbers are consecutive modulo 65,536, oldest to newest, the newest
being one below the next sequence number (R130). -/
def LogLawful (s : State) : Prop :=
  s.log.length ≤ 48 ∧
    ∀ k (h : k < s.log.length), s.log[k].seq = s.nextSeq - BitVec.ofNat 16 (s.log.length - k)

/-! ### Locks -/

/-- The sender of the frame being read, if its header has been accepted. -/
def readingSender (s : State) : Option Byte :=
  match s.port.reading with
  | .request h _ => some h.sender
  | .onArrival h => some h.sender
  | .none | .header => none

/-- Every holder of a control lock, and every sender of a frame that the port has accepted, is an individual station, 1 to
239 (R166, R150). -/
def HoldersIndividual (s : State) : Prop :=
  (∀ i l, (s.stand i).lock = some l → 1 ≤ l.holder.toNat ∧ l.holder.toNat ≤ 239) ∧
    (∀ f ∈ s.port.rx, 1 ≤ f.sender.toNat ∧ f.sender.toNat ≤ 239) ∧
    (∀ b, s.readingSender = some b → 1 ≤ b.toNat ∧ b.toNat ≤ 239)

/-! ### Vocabulary of the statements -/

/-- The request handler can take this frame now: it is at the head of the receive queue, addressed to the part alone, and
a slot for its reply is at hand (R157). -/
def CanTake (s : State) (f : Frame) : Prop :=
  s.port.rx.head? = some f ∧ f.individual = true ∧
    (s.port.handlerSlot = true ∨ (s.port.tx.length < 12 ∧ s.port.handlerSlot = false ∧ s.port.waitingDrives = [] ∧
      s.port.waitingNotices = [] ∧ s.port.owedReports = []))

/-- The part while the handler deals with the head frame, taken at local time `t`: the frame has left the receive queue, a
transmit slot counts as occupied for the reply, and every lock that its sender holds has its expiry armed for
5,000,000 µs from `t` (R157, R146, R170; log entries 1, 3 and 14). -/
def taking (s : State) (t : Time) (f : Frame) : State :=
  { s with
    clock := t
    stands := s.stands.map fun x =>
      { x with lock := x.lock.map fun l => if l.holder = f.sender then { l with expiry := t + 5000000 } else l }
    port := { s.port with rx := s.port.rx.tail, handlerSlot := true } }

/-- The reply placed as the youngest entry of the transmit queue, in the slot that was handed over: a REPLY of the request's
class to its sender, with the verb, the result and the data (R146, R158). -/
def replied (s : State) (f : Frame) (r : Result) (data : List Byte) : State :=
  { s with port := { s.port with
      handlerSlot := false
      tx := s.port.tx ++ [⟨f.cls, f.sender, .reply f.verb r data, false, false⟩] } }

/-- What a command of stand `i` leaves alone: every other stand, the trackers, the grades, the line settings, the mode, the
analog round, the waiting commands and, of the port, all but the transmit side's queue and its waiting parties (R174). -/
structure KeepsOthers (i : StandNo) (s t : State) : Prop where
  stands : ∀ j, j ≠ i → t.stand j = s.stand j
  trackers : t.trackers = s.trackers
  grades : t.grades = s.grades
  line : t.line = s.line
  mode : t.mode = s.mode
  scanNext : t.scanNext = s.scanNext
  pending : t.pending = s.pending
  port : t.port = { s.port with
    tx := t.port.tx
    handlerSlot := t.port.handlerSlot
    waitingDrives := t.port.waitingDrives
    waitingNotices := t.port.waitingNotices
    owedReports := t.port.owedReports }

/-! ### What the moves of a splice come to -/

/-- The last `n` of a list. -/
def newest {α : Type} (n : Nat) (l : List α) : List α := l.drop (l.length - n)

/-- An event set with the marks of these kinds set. -/
def latched (e : EventSet) (ks : List EventKind) : EventSet := ks.foldl withEvent e

/-- The id of the stand's running reel, 0 when absent, and of its head reel, 0 with no head (R92). -/
def reelIds (x : Stand) : ReelId × ReelId :=
  ((x.running.map fun r => r.id).getD 0, (x.queue.head?.map fun r => r.id).getD 0)

/-- The record of an abort with this cause, written now (R92). -/
def abortRecord (s : State) (i : StandNo) (c : AbortCause) : SpliceRecord :=
  { seq := s.nextSeq
    stand := i
    time := s.clock
    outcome := .aborted
    cause := some c
    early := (s.stand i).ctx.early
    tailLong := false
    tailShort := false
    noticeUnacked := false
    source := (s.stand i).source
    expiring := (reelIds (s.stand i)).1
    fresh := (reelIds (s.stand i)).2
    v := 0
    dRun := 0
    joint := 0
    e := 0 }

/-- The record of an outcome reached past the paster, written now: it carries the fire figures and the tail flags (R92). -/
def firedRecord (s : State) (i : StandNo) (o : SpliceOutcome) : SpliceRecord :=
  { seq := s.nextSeq
    stand := i
    time := s.clock
    outcome := o
    cause := none
    early := (s.stand i).ctx.early
    tailLong := (s.stand i).ctx.tailLong
    tailShort := (s.stand i).ctx.tailShort
    noticeUnacked := false
    source := (s.stand i).source
    expiring := (reelIds (s.stand i)).1
    fresh := (reelIds (s.stand i)).2
    v := (s.stand i).ctx.vFire
    dRun := (s.stand i).ctx.dRunFire
    joint := (s.stand i).ctx.joint
    e := (s.stand i).ctx.eFire }

/-- The drive order is on its way: it stands in the transmit queue, urgent, addressed to the stand's drive station, or it
waits for a slot as the stand's pending drive order (R102 to R104). -/
def DriveOrdered (s : State) (i : StandNo) (k : DriveKind) : Prop :=
  (∃ e ∈ s.port.tx, e.cls = .urgent ∧ e.target = (s.stand i).record.driveStation ∧
      match k with
      | .handover => e.body = .handover i (s.stand i).loop.reference
      | .release => e.body = .release i) ∨
    ⟨i, k⟩ ∈ s.port.waitingDrives

/-- The notice is on its way to its target: it stands in the transmit queue as an urgent entry not begun, or it waits for a
slot as its stand's pending notice (R132, R133). -/
def NoticeGiven (s : State) (n : Notice) : Prop :=
  ⟨.urgent, n.target, .notice n, false, false⟩ ∈ s.port.tx ∨ n ∈ s.port.waitingNotices

/-- Every REFERENCE of the stand still in the transmit queue is begun (R105). -/
def ReferencesWithdrawn (s : State) (i : StandNo) : Prop :=
  ∀ e ∈ s.port.tx, ∀ v, e.body = .reference i v → e.begun = true

/-- `u` is `s` after an abort of stand `i` with cause `c`, the events `ks` having been raised at it too (R84, R105). -/
structure AbortedBy (i : StandNo) (c : AbortCause) (ks : List EventKind) (s u : State) : Prop where
  others : KeepsOthers i s u
  clock : u.clock = s.clock
  stand : u.stand i = { s.stand i with
    queue := (s.stand i).queue.modifyHead fun r => { r with ready := false }
    ctx := { (s.stand i).ctx with
      state := .stopping
      cause := some c
      missingTabAt := none
      prewarn := false
      stoppingAt := some (s.clock + 15000000) }
    loop := { (s.stand i).loop with activity := .stopped }
    out := { (s.stand i).out with pasterAt := none, horn := (u.stand i).out.horn }
    events := latched (s.stand i).events (ks ++ [.aborted]) }
  horn : (u.stand i).out.horn.pattern = .off
  log : u.log = newest 48 (s.log ++ [s.abortRecord i c])
  nextSeq : u.nextSeq = s.nextSeq + 1
  release : u.DriveOrdered i .release
  withdrawn : u.ReferencesWithdrawn i

/-- D_fresh and its source for a head reel now (R53). -/
def freshChoice (s : State) (i : StandNo) (r : ReelRecord) : Nat × FreshSource :=
  match r.diameter with
  | some d => (d, .record)
  | none =>
    if (s.stand i).sensor.valid then
      (if (s.stand i).sensor.diameter < (s.grade r.grade).spliceDiameter + 1000 then
          (s.grade r.grade).spliceDiameter + 1000
        else if 14000 < (s.stand i).sensor.diameter then 14000
        else (s.stand i).sensor.diameter, .sensor)
    else ((s.grade r.grade).nominal, .nominal)

/-- The speed to which a RUNNING loop ramps its reference at an accepted sample with this Δt: toward V + C by at most the
run-up rate over Δt, within 0 to 16,000 mm/s (R95). -/
def rampedSpeed (s : State) (i : StandNo) (dt : Nat) : Nat :=
  let l := (s.stand i).loop
  let target : Int := (s.tracker (s.stand i).record.webSlot).v + l.correction
  let step : Int := ((s.headGrade i).runUpRate * dt / 1000000 : Nat)
  let ramped : Int := if target < l.reference - step then l.reference - step
    else if l.reference + step < target then l.reference + step else target
  (max 0 (min 16000 ramped)).toNat

/-- `u` is `s` after stand `i` has entered RUNUP from WATCH on its head reel `r`, with this EARLY mark, no drive order of an
earlier splice being pending (R67, R94, R66). -/
structure RunUpEntered (i : StandNo) (r : ReelRecord) (early : Bool) (s u : State) : Prop where
  others : KeepsOthers i s u
  clock : u.clock = s.clock
  log : u.log = s.log ∧ u.nextSeq = s.nextSeq
  stand : u.stand i = { s.stand i with
    ctx := { (s.stand i).ctx with
      state := .runUp
      early := early
      prewarn := true
      excursion := false
      vFire := 0
      dRunFire := 0
      eFire := 0
      joint := 0
      tailLong := false
      tailShort := false }
    dFresh := (s.freshChoice i r).1
    source := (s.freshChoice i r).2
    loop := ⟨.running, .acquire, 0, 0, 0, false, false, 0⟩
    out := { (s.stand i).out with horn := (u.stand i).out.horn }
    events := latched (s.stand i).events (if (s.stand i).ctx.prewarn then [.runUpStart] else [.prewarn, .runUpStart]) }
  horn : (u.stand i).out.horn.pattern = .prewarn

/-! ### Settling -/

/-- The resting state of R61 for a stand in a part mode. -/
def restingFor (m : Mode) (x : Stand) : CtxState :=
  if x.record.enabled = false then .off
  else if m = .config ∨ x.ctx.auto = false then .idle
  else if x.running.isSome = true ∧ (x.queue.head?.any fun r => r.ready) = true then .watch
  else .noReel

/-- A context after settling (R61): one outside the resting states, or already in the state of R61, is unchanged; an entry
clears EARLY, the abort cause and the prewarn mark. -/
def settledCtx (m : Mode) (x : Stand) : Context :=
  if x.ctx.state.resting = false ∨ restingFor m x = x.ctx.state then x.ctx
  else { x.ctx with state := restingFor m x, early := false, cause := none, prewarn := false }

/-- `u` is `s` with stand `i` made `y` and its context then settled; nothing else is changed but the stand's horn. -/
structure SettledAs (i : StandNo) (y : Stand) (s u : State) : Prop where
  others : KeepsOthers i s u
  clock : u.clock = s.clock
  log : u.log = s.log ∧ u.nextSeq = s.nextSeq
  port : u.port = s.port
  stand : u.stand i = { y with
    ctx := settledCtx s.mode y
    out := { y.out with horn := (u.stand i).out.horn } }

/-- `u` is `s` with the part mode `m` and every context settled in it; nothing else is changed but the horns. -/
structure AllSettled (m : Mode) (s u : State) : Prop where
  mode : u.mode = m
  stand : ∀ i, u.stand i = { s.stand i with
    ctx := settledCtx m (s.stand i)
    out := { (s.stand i).out with horn := (u.stand i).out.horn } }
  rest : u = { s with mode := m, stands := u.stands }

/-- `u` is `s` after a change from RUN to HOLD (R89): the splices before fire are aborted with cause HOLD, every other
context settles. -/
structure HeldFrom (s u : State) : Prop where
  mode : u.mode = .hold
  clock : u.clock = s.clock
  trackers : u.trackers = s.trackers
  tables : u.grades = s.grades ∧ u.line = s.line
  received : u.port.rx = s.port.rx ∧ u.port.bus = s.port.bus ∧ u.port.station = s.port.station
  aborted : ∀ i, (s.stand i).ctx.state.beforeFire = true → ∃ h : Horn, h.pattern = .off ∧ u.stand i = { s.stand i with
    queue := (s.stand i).queue.modifyHead fun r => { r with ready := false }
    ctx := { (s.stand i).ctx with
      state := .stopping
      cause := some .hold
      missingTabAt := none
      prewarn := false
      stoppingAt := some (s.clock + 15000000) }
    loop := { (s.stand i).loop with activity := .stopped }
    out := { (s.stand i).out with pasterAt := none, horn := h }
    events := latched (s.stand i).events [.aborted] }
  settled : ∀ i, (s.stand i).ctx.state.beforeFire = false → u.stand i = { s.stand i with
    ctx := settledCtx .hold (s.stand i)
    out := { (s.stand i).out with horn := (u.stand i).out.horn } }

/-- The stand's control lock is free or held by this station (R169). -/
def LockPasses (s : State) (i : StandNo) (station : Byte) : Prop :=
  ∀ l, (s.stand i).lock = some l → l.holder = station

/-- The reel id stands in no queue and in no running reel record, the running record of stand `i` not counted (R14,
R19). -/
def IdFreeBut (s : State) (id : ReelId) (i : Option StandNo) : Prop :=
  ∀ j, (∀ r ∈ (s.stand j).queue, r.id ≠ id) ∧ (some j ≠ i → ∀ r, (s.stand j).running = some r → r.id ≠ id)

/-- No party waits for a transmit slot, and the receive queue is empty or its head needs none: a freed slot stays free
(R149, R157). -/
def NothingWaits (s : State) : Prop :=
  s.port.waitingDrives = [] ∧ s.port.waitingNotices = [] ∧ s.port.owedReports = [] ∧
    ∀ f, s.port.rx.head? = some f → f.callsForReply = true → s.port.handlerSlot = true

end State

/-- The stand whose own events a command is, for the commands that concern one stand alone (R174). -/
def ownStand : Instr → Option StandNo
  | .pulseInputChange _ i _ _ => some i
  | .changeAccepted _ i _ _ => some i
  | .stoppedTimerExpiry _ i _ => some i
  | .guardOpen _ i => some i
  | .guardSafe _ i => some i
  | .missingTabExpiry _ i => some i
  | .pasterTimerExpiry _ i => some i
  | .knifeTimerExpiry _ i => some i
  | .confirmTimerExpiry _ i => some i
  | .stoppingTimerExpiry _ i => some i
  | .pasteEndExpiry _ i => some i
  | .knifeEndExpiry _ i => some i
  | .brakeDelayExpiry _ i => some i
  | .brakeHoldExpiry _ i => some i
  | .hornHalfPeriod _ i => some i
  | .prewarnPhase _ i => some i
  | .lockExpiry _ i => some i
  | _ => none

end Machine

end Sys2Proof
end

