-- ==== Sys2Proof/Certificates/Slice0/Obligations.lean ====
section
/-! DEFINITION. The statements for the provers, from the numbered rules of spec/. -/

section

open Sys2Proof Sys2Proof.Machine Sys2Proof.Machine.State

/-! ### The queue of commands, power-on and RESTART -/

/-- A step runs the command at the front of the queue on the state with the queue's rest; with nothing waiting the part
idles (the model's own choice, log entry 6). -/
def Obligations.StepRunsFrontCommand : Prop :=
  (∀ (c : Instr) (rest : List Instr) (s : State), step { s with pending := c :: rest } = exec c { s with pending := rest }) ∧
    ∀ s : State, s.pending = [] → step s = .next s

/-- Every command answers a next state, in every state, and leaves the queue of waiting commands alone. That it answers one also
where its event cannot happen is the model's choice (log entry 2). -/
def Obligations.EveryCommandCompletes : Prop :=
  ∀ (c : Instr) (s : State), ∃ u : State, exec c s = .next u ∧ u.pending = s.pending

/-- POWER_ON gives every block its power-on values from the pins (R155, R154, R124, R42 and the owners' rules), and the
reset state is what POWER_ON gives with the pins of log entry 7. The horn pitch in force and phase, which are left open here,
are the model's choice (log entry 8). -/
def Obligations.PowerOnValues : Prop :=
  (∀ (pins : Pins) (s : State), ∃ u : State, exec (.powerOn pins) s = .next u ∧
    u.clock = 0 ∧ u.mode = .config ∧ (∀ g : Fin 32, u.grades[g] = none) ∧ u.line = ⟨0, 0, 3, 3000⟩ ∧
    u.log = [] ∧ u.nextSeq = 0 ∧ u.scanNext = 0 ∧ u.pending = s.pending ∧
    (∀ k, u.tracker k = ⟨.none, 0, 0, 0, 0, 0, 0, 0, false, none, none, none⟩) ∧
    u.port.station = (if 1 ≤ pins.straps.toNat ∧ pins.straps.toNat ≤ 239 then pins.straps else 239) ∧
    u.port.groups = [] ∧ u.port.bus = .busy ∧ u.port.runs.dominant = 0 ∧ u.port.tx = [] ∧ u.port.rx = [] ∧
    u.port.sending = none ∧ u.reserved = false ∧ u.port.handlerSlot = false ∧ u.port.waitingDrives = [] ∧
    u.port.waitingNotices = [] ∧ u.port.owedReports = [] ∧
    ∀ i : StandNo, (u.stand i).record = StandRecord.zero ∧ (u.stand i).queue = [] ∧ (u.stand i).running = none ∧
      (u.stand i).dRun = 0 ∧ (u.stand i).measured = false ∧ (u.stand i).runoutFired = false ∧
      (u.stand i).vFresh = 0 ∧ (u.stand i).dFresh = 0 ∧ (u.stand i).source = .nominal ∧
      (u.stand i).dancer = ⟨0, false, 0⟩ ∧ (u.stand i).sensor = ⟨0, false, 0⟩ ∧
      (u.stand i).ctx = ⟨.off, false, false, false, false, none, 0, 0, 0, 0, false, false, none, none, none⟩ ∧
      (u.stand i).loop = ⟨.stopped, .acquire, 0, 0, 0, false, false, 0⟩ ∧
      (u.stand i).events = 0 ∧ (u.stand i).lock = none ∧
      (u.stand i).out = {
        pasterAt := none
        knifeAt := none
        pasteEndAt := none
        knifeEndAt := none
        brakeDelayAt := none
        brakeHoldAt := none
        paste := false
        knife := false
        brake := false
        horn := (u.stand i).out.horn
        latch := pins.guardOpen[i]
        guardOpen := pins.guardOpen[i] } ∧
      (u.stand i).out.horn.line = false ∧ (u.stand i).out.horn.pattern = .off ∧
      (u.stand i).runCh = {
        input := pins.runHigh[i]
        accepted := pins.runHigh[i]
        change := none
        state := .stopped
        lastMark := none
        lastPeriod := none
        stoppedAt := none
        glitches := 0
        rejectRun := 0
        validRun := 0
        fault := false } ∧
      (u.stand i).freshCh = {
        input := pins.freshHigh[i]
        accepted := pins.freshHigh[i]
        change := none
        state := .stopped
        lastMark := none
        lastPeriod := none
        stoppedAt := none
        glitches := 0
        rejectRun := 0
        validRun := 0
        fault := false }) ∧
  exec (.powerOn ⟨0, Vector.replicate 6 false, Vector.replicate 6 false, Vector.replicate 6 false⟩) State.reset =
    .next State.reset

/-- The reset state obeys every law that the invariants below keep. -/
def Obligations.ResetObeysLaws : Prop :=
  State.reset.WithinCapacity ∧ State.reset.GradesInRange ∧ State.reset.RecordsInRange ∧ State.reset.LineInRange ∧
    State.reset.AddressesInRange ∧ State.reset.TrackersInRange ∧ State.reset.ReadyOnHeadAlone ∧
    State.reset.ContextsLawful ∧ State.reset.OutputsSafe ∧ State.reset.LogLawful ∧ State.reset.HoldersIndividual

/-- RESTART in CONFIG keeps and resets what R171's table says, marks the notices it removes (R134), and answers ACCEPTED in
the emptied queue (R156); in RUN and HOLD it is refused WRONG_MODE. The horn pitch in force and phase afterwards are the model's
choice (log entry 8). -/
def Obligations.RestartKeepsAndResets : Prop :=
  ∀ (s : State) (t : Time) (f : Frame), s.CanTake f → f.verb = 0x65 →
    (s.mode ≠ .config → exec (.restart t) s = .next ((s.taking t f).replied f .wrongMode [])) ∧
    (s.mode = .config → ∃ u : State, exec (.restart t) s = .next u ∧
      u.clock = t ∧ u.mode = .config ∧ u.grades = s.grades ∧ u.line = s.line ∧ u.nextSeq = s.nextSeq ∧
      u.scanNext = 0 ∧
      u.log = s.log.map (fun r =>
        if (noticesOf s.port.tx ++ s.port.waitingNotices).any (fun n => n.seq == r.seq) then { r with noticeUnacked := true }
        else r) ∧
      u.port = { s.port with
        tx := [⟨f.cls, f.sender, .reply 0x65 .accepted [], false, false⟩]
        rx := []
        reading := u.port.reading
        handlerSlot := false
        waitingDrives := []
        waitingNotices := []
        owedReports := [] } ∧
      u.reserved = false ∧
      (∀ k, u.tracker k = ⟨.none, 0, 0, 0, 0, 0, 0, 0, false, none, none, none⟩) ∧
      (∀ i, (u.stand i).out.horn.pattern = .off ∧ (u.stand i).out.horn.line = false) ∧
      ∀ i, u.stand i = { s.stand i with
        runCh := ⟨(s.stand i).runCh.input, (s.stand i).runCh.input, none, .stopped, none, none, none, 0, 0, 0, false⟩
        freshCh :=
          ⟨(s.stand i).freshCh.input, (s.stand i).freshCh.input, none, .stopped, none, none, none, 0, 0, 0, false⟩
        vFresh := 0
        dFresh := 0
        source := .nominal
        dancer := ⟨0, false, 0⟩
        sensor := ⟨0, false, 0⟩
        ctx := ⟨(s.stand i).ctx.state, false, false, false, false, none, 0, 0, 0, 0, false, false, none, none, none⟩
        loop := ⟨.stopped, .acquire, 0, 0, 0, false, false, 0⟩
        out := {
          pasterAt := none
          knifeAt := none
          pasteEndAt := none
          knifeEndAt := none
          brakeDelayAt := none
          brakeHoldAt := none
          paste := false
          knife := false
          brake := false
          horn := (u.stand i).out.horn
          latch := (s.stand i).out.guardOpen
          guardOpen := (s.stand i).out.guardOpen }
        events := 0
        lock := none })

/-! ### Requests that read -/

/-- A taken ASK STATUS, ASK STAND, ASK GRADE, ASK QUEUE or ASK LINE changes nothing but the taking, and its reply carries
result ACCEPTED and the data of the state as it stands at the reply, laid out as section 10.4 gives (R24, R139, R172, R157,
R158). -/
def Obligations.ReadsAnswerAndChangeNothing : Prop :=
  (∀ (s : State) (t : Time) (f : Frame), s.CanTake f →
    (f.verb = 0x40 → exec (.askStatus t) s = .next ((s.taking t f).replied f .accepted (statusData (s.taking t f)))) ∧
    (∀ i : StandNo, f.verb = 0x41 → f.payload.head? = some (BitVec.ofNat 8 (i.val + 1)) →
      exec (.askStand t) s = .next ((s.taking t f).replied f .accepted (standData (s.taking t f) i))) ∧
    (∀ g : Fin 32, f.verb = 0x42 → f.payload.head? = some (BitVec.ofNat 8 g.val) →
      exec (.askGrade t) s = .next ((s.taking t f).replied f .accepted (gradeData (s.taking t f) g))) ∧
    (∀ i : StandNo, f.verb = 0x43 → f.payload.head? = some (BitVec.ofNat 8 (i.val + 1)) →
      exec (.askQueue t) s = .next ((s.taking t f).replied f .accepted (queueData (s.taking t f) i))) ∧
    (f.verb = 0x45 → exec (.askLine t) s = .next ((s.taking t f).replied f .accepted (lineData (s.taking t f))))) ∧
  (∀ (s : State) (i : StandNo) (g : Fin 32),
    (statusData s).length = 22 ∧ (standData s i).length = 11 ∧ (gradeData s g).length = 26 ∧
    (queueData s i).length = 9 + 9 * (s.stand i).queue.length ∧ (lineData s).length = 7 + s.port.groups.length ∧
    byteAt (statusData s) 0 = (match s.mode with | .config => 0 | .run => 1 | .hold => 2) ∧
    byteAt (statusData s) 1 = s.port.station ∧ w16 (statusData s) 2 = s.nextSeq ∧
    byteAt (statusData s) (4 + 3 * i.val) = BitVec.ofNat 8 (s.stand i).ctx.state.code ∧
    byteAt (statusData s) (5 + 3 * i.val) = (match (s.stand i).lock with | none => 0 | some l => l.holder) ∧
    byteAt (statusData s) (6 + 3 * i.val) =
      (if (s.stand i).out.latch then 1 else 0) + (if (s.stand i).events = 0 then 0 else 2) ∧
    byteAt (standData s i) 0 = BitVec.ofNat 8 (i.val + 1) ∧
    byteAt (standData s i) 1 = BitVec.ofNat 8 (s.stand i).ctx.state.code ∧
    (∀ k : Fin 8, (byteAt (standData s i) 2).getLsbD k.val = match k.val with
      | 0 => (s.stand i).ctx.auto
      | 1 => (s.stand i).loop.locked
      | 2 => decide ((s.stand i).loop.mode = .track)
      | 3 => (s.stand i).measured
      | 4 => (s.stand i).out.latch
      | _ => false) ∧
    byteAt (standData s i) 7 = (if s.slotInUse (s.stand i).record.webSlot = false then 0
      else match (s.tracker (s.stand i).record.webSlot).state with
        | .none => 0
        | .acquiring => 1
        | .tracking => 2
        | .coasting => 3
        | .lost => 4) ∧
    byteAt (standData s i) 10 = (match (s.stand i).lock with | none => 0 | some l => l.holder) ∧
    w16 (standData s i) 3 = BitVec.ofNat 16 (s.stand i).dRun ∧ w16 (standData s i) 5 = BitVec.ofNat 16 (s.stand i).vFresh ∧
    w16 (standData s i) 8 = (s.stand i).events ∧
    byteAt (gradeData s g) 1 = (if s.grades[g] = none then 0 else 1) ∧
    (∀ r, s.grades[g] = some r → w16 (gradeData s g) 2 = BitVec.ofNat 16 r.caliper ∧
      w16 (gradeData s g) 8 = BitVec.ofNat 16 r.spliceDiameter ∧ w16 (gradeData s g) 24 = BitVec.ofNat 16 r.correctionLimit) ∧
    (s.grades[g] = none → ∀ n, 2 ≤ n → byteAt (gradeData s g) n = 0) ∧
    byteAt (queueData s i) 0 = BitVec.ofNat 8 (i.val + 1) ∧
    (byteAt (queueData s i) 1).toNat % 32 = (match (s.stand i).running with | none => 0 | some r => r.grade.val) ∧
    (byteAt (queueData s i) 1).getLsbD 5 = (s.stand i).running.isSome ∧
    (byteAt (queueData s i) 1).getLsbD 6 = (s.stand i).measured ∧ (byteAt (queueData s i) 1).getLsbD 7 = false ∧
    w32 (queueData s i) 2 = (match (s.stand i).running with | none => 0 | some r => r.id) ∧
    w16 (queueData s i) 6 = BitVec.ofNat 16 (s.stand i).dRun ∧
    byteAt (queueData s i) 8 = BitVec.ofNat 8 (s.stand i).queue.length ∧
    (∀ n (h : n < (s.stand i).queue.length),
      let r := (s.stand i).queue[n]
      let marks := byteAt (queueData s i) (13 + 9 * n)
      w32 (queueData s i) (9 + 9 * n) = r.id ∧ marks.toNat % 32 = r.grade.val ∧ marks.getLsbD 5 = r.diameter.isSome ∧
      marks.getLsbD 6 = r.tab.isSome ∧ marks.getLsbD 7 = r.ready ∧
      w16 (queueData s i) (14 + 9 * n) = BitVec.ofNat 16 (r.diameter.getD 0) ∧
      w16 (queueData s i) (16 + 9 * n) = BitVec.ofNat 16 (r.tab.getD 0)) ∧
    byteAt (lineData s) 0 = s.line.lineMaster ∧ byteAt (lineData s) 1 = s.line.reportStation ∧
    byteAt (lineData s) 5 = s.port.station ∧ (lineData s).drop 7 = s.port.groups)

/-- ASK LOG answers by the five rows of R131, and changes nothing but the taking. -/
def Obligations.AskLogAnswers : Prop :=
  ∀ (s : State) (t : Time) (f : Frame) (a b : Byte) (more : List Byte), s.CanTake f → f.verb = 0x44 →
    f.payload = a :: b :: more → s.LogLawful →
    let n : SeqNo := a ++ b
    let d := (s.nextSeq - n).toNat
    let x := s.taking t f
    (d = 0 → exec (.askLog t) s = .next (x.replied f .empty [])) ∧
    (1 ≤ d → d ≤ s.log.length → ∃ r ∈ s.log, r.seq = n ∧
      exec (.askLog t) s = .next (x.replied f .accepted (recordBytes r))) ∧
    (∀ r, s.log.head? = some r → s.log.length < d → d ≤ 32768 →
      exec (.askLog t) s = .next (x.replied f .gap (recordBytes r))) ∧
    (s.log ≠ [] → 32768 < d → exec (.askLog t) s = .next (x.replied f .badValue [])) ∧
    (s.log = [] → d ≠ 0 → exec (.askLog t) s = .next (x.replied f .badValue []))

/-- A frame whose verb is assigned to nothing is answered UNKNOWN_VERB when it is addressed to the part alone; a frame with a
verb that the part itself sends is taken and discarded, without reply and without refreshing a lock (R159). Addressed to a
group or to 255, an ASK request and an unassigned verb are discarded, and any other request is applied without a reply and
without refreshing a lock: shown of PUT GRADE, TAKE CONTROL, SET MODE HOLD and STAND ORDER ABORT (R160). -/
def Obligations.GroupFramesAndUnnamedVerbs : Prop :=
  ∀ (s : State) (t : Time) (f : Frame),
    let unassigned : Prop := f.verb ∉ ([0x10, 0x11, 0x20, 0x30, 0x31, 0x40, 0x41, 0x42, 0x43, 0x44, 0x45, 0x50, 0x51, 0x52,
      0x53, 0x54, 0x55, 0x56, 0x60, 0x61, 0x62, 0x63, 0x64, 0x65, 0x66, 0x70] : List Byte)
    let x : State := { s with clock := t, port := { s.port with rx := s.port.rx.tail } }
    (s.CanTake f → unassigned → exec (.unknownVerb t) s = .next ((s.taking t f).replied f .unknownVerb [])) ∧
    (s.port.rx.head? = some f → f.verb ∈ ([0x20, 0x30, 0x31, 0x70] : List Byte) → s.port.handlerSlot = false →
      exec (.partVerbDiscarded t) s = .next x) ∧
    (s.port.rx.head? = some f → 240 ≤ f.target.toNat → s.port.handlerSlot = false →
      (unassigned → exec (.unknownVerb t) s = .next x) ∧
      (f.verb = 0x40 → exec (.askStatus t) s = .next x) ∧ (f.verb = 0x41 → exec (.askStand t) s = .next x) ∧
      (f.verb = 0x42 → exec (.askGrade t) s = .next x) ∧ (f.verb = 0x43 → exec (.askQueue t) s = .next x) ∧
      (f.verb = 0x44 → exec (.askLog t) s = .next x) ∧ (f.verb = 0x45 → exec (.askLine t) s = .next x) ∧
      (∀ g : Fin 32, f.verb = 0x50 → 25 ≤ f.payload.length → f.payload.head? = some (BitVec.ofNat 8 g.val) →
        gradeInRange (gradeOfPayload f.payload) = true → (∀ i, (s.stand i).ctx.state.splicing = false) →
        exec (.putGrade t) s = .next { x with grades := s.grades.set g (some (gradeOfPayload f.payload)) }) ∧
      (∀ i : StandNo, f.verb = 0x62 → f.payload.head? = some (BitVec.ofNat 8 (i.val + 1)) → (s.stand i).lock = none →
        exec (.takeControl t) s =
          .next (x.setStand i { s.stand i with lock := some ⟨f.sender, t + 5000000⟩ })) ∧
      (∀ o, f.verb = 0x60 → f.payload.head? = some 2 → s.mode = .run →
        ∃ u : State, exec (.setModeHold t o) s = .next u ∧ HeldFrom x u) ∧
      (∀ (i : StandNo) (more : List Byte), f.verb = 0x61 → f.payload = BitVec.ofNat 8 (i.val + 1) :: 4 :: more →
        (s.stand i).ctx.state.beforeFire = true →
        ∃ u : State, exec (.standOrderAbort t) s = .next u ∧ AbortedBy i .order [] x u))

/-- The checks that come before a request's own: a payload shorter than the verb requires, and a stand number outside 1 to 6,
are refused BAD_VALUE; a request that needs the control lock of a stand held by another station is refused LOCKED with the
stand and the holder (R2, R158, R169, R82, R136). That each of the six STAND ORDER rows takes a frame too short to carry its
order code is the model's choice (log entry 4); the two bytes of a TAKE CONTROL or GIVE CONTROL reply refused BAD_VALUE are free
values (log entry 11). -/
def Obligations.RequestsRefusedFirst : Prop :=
  ∀ (s : State) (t : Time) (f : Frame), s.CanTake f →
    let x := s.taking t f
    let atLeast : List (Instr × Byte × Nat) :=
      [(.askStand t, 0x41, 1), (.askGrade t, 0x42, 1), (.askQueue t, 0x43, 1), (.askLog t, 0x44, 2), (.putGrade t, 0x50, 25),
        (.putStand t, 0x51, 39), (.putLine t, 0x52, 5), (.addReel t, 0x53, 11), (.dropReel t, 0x54, 4),
        (.setRunning t, 0x55, 9), (.markReady t, 0x56, 5), (.standOrderAutoOn t, 0x61, 2), (.standOrderAutoOff t, 0x61, 2),
        (.standOrderSpliceNow t, 0x61, 2), (.standOrderAbort t, 0x61, 2), (.standOrderManualTrackOn t, 0x61, 2),
        (.standOrderManualTrackOff t, 0x61, 2), (.setGroups t, 0x66, 1)]
    let named : List (Instr × Byte × Nat) :=
      [(.askStand t, 0x41, 1), (.askQueue t, 0x43, 1), (.putStand t, 0x51, 39), (.addReel t, 0x53, 11),
        (.setRunning t, 0x55, 9), (.markReady t, 0x56, 5)]
    let locked : List (Instr × Byte × Nat) := [(.addReel t, 0x53, 11), (.setRunning t, 0x55, 9), (.markReady t, 0x56, 5)]
    let run : Prop := s.mode = .run
    let orders : List (Instr × Byte × Prop) := [(.standOrderAutoOn t, 1, s.mode ≠ .config), (.standOrderAutoOff t, 2, True),
      (.standOrderSpliceNow t, 3, run), (.standOrderManualTrackOn t, 5, run), (.standOrderManualTrackOff t, 6, run)]
    (∀ r ∈ atLeast, f.verb = r.2.1 → f.payload.length < r.2.2 → exec r.1 s = .next (x.replied f .badValue [])) ∧
    (∀ r ∈ named, ∀ b : Byte, f.verb = r.2.1 → r.2.2 ≤ f.payload.length → f.payload.head? = some b →
      b.toNat = 0 ∨ 6 < b.toNat → exec r.1 s = .next (x.replied f .badValue [])) ∧
    (∀ b : Byte, f.payload.head? = some b → b.toNat = 0 ∨ 6 < b.toNat →
      (f.verb = 0x62 → ∃ y z : Byte, exec (.takeControl t) s = .next (x.replied f .badValue [y, z])) ∧
      (f.verb = 0x63 → ∃ y z : Byte, exec (.giveControl t) s = .next (x.replied f .badValue [y, z]))) ∧
    (∀ (r : Instr × Byte × Prop) (b : Byte) (more : List Byte), r ∈ (.standOrderAbort t, 4, True) :: orders → r.2.2 →
      f.verb = 0x61 → f.payload = b :: r.2.1 :: more → b.toNat = 0 ∨ 6 < b.toNat →
      exec r.1 s = .next (x.replied f .badValue [])) ∧
    (∀ (b : Byte) (more : List Byte), f.verb = 0x64 → f.payload = 1 :: b :: more → b.toNat = 0 ∨ 6 < b.toNat →
      exec (.clearLatchEvents t) s = .next (x.replied f .badValue [])) ∧
    ∀ (i : StandNo) (l : ControlLock), (s.stand i).lock = some l → l.holder ≠ f.sender →
      let n : Byte := BitVec.ofNat 8 (i.val + 1)
      (∀ r ∈ locked, f.verb = r.2.1 → r.2.2 ≤ f.payload.length → f.payload.head? = some n →
        exec r.1 s = .next (x.replied f .locked [n, l.holder])) ∧
      (f.verb = 0x54 → 4 ≤ f.payload.length → (∃ r ∈ (s.stand i).queue, r.id = w32 f.payload 0) →
        (∀ j, j ≠ i → ∀ r ∈ (s.stand j).queue, r.id ≠ w32 f.payload 0) →
        (∀ j r, (s.stand j).running = some r → r.id ≠ w32 f.payload 0) →
        exec (.dropReel t) s = .next (x.replied f .locked [n, l.holder])) ∧
      ∀ r ∈ orders, r.2.2 → ∀ more, f.verb = 0x61 → f.payload = n :: r.2.1 :: more →
        exec r.1 s = .next (x.replied f .locked [n, l.holder])

/-! ### The tables -/

/-- The checks of PUT GRADE and PUT STAND accept exactly the ranges of R3 and R6 (R4, R7). -/
def Obligations.RangeChecksMatchTables : Prop :=
  (∀ g : GradeRecord, gradeInRange g = true ↔
    30 ≤ g.caliper ∧ g.caliper ≤ 300 ∧ 500 ≤ g.core ∧ g.core ≤ 2000 ∧ 20 ≤ g.runoutMargin ∧ g.runoutMargin ≤ 500 ∧
    g.core + g.runoutMargin + 100 ≤ g.spliceDiameter ∧ g.spliceDiameter ≤ 4000 ∧
    g.spliceDiameter + 1000 ≤ g.nominal ∧ g.nominal ≤ 14000 ∧ g.defaultTab ≤ 999 ∧
    20 ≤ g.tailLength ∧ g.tailLength ≤ 1000 ∧ 200 ≤ g.runUpRate ∧ g.runUpRate ≤ 5000 ∧ g.settleTime ≤ 20000 ∧
    5 ≤ g.lockBand ∧ g.lockBand ≤ 200 ∧ 2 ≤ g.lockCount ∧ g.lockCount ≤ 32 ∧
    50 ≤ g.correctionLimit ∧ g.correctionLimit ≤ 2000) ∧
  (∀ r : StandRecord, standInRange r = true ↔
    1 ≤ r.driveStation.toNat ∧ r.driveStation.toNat ≤ 239 ∧ r.sensorToNip ≤ 999 ∧
    5000 ≤ r.pasterLatency ∧ r.pasterLatency ≤ 200000 ∧ 2000 ≤ r.knifeLatency ∧ r.knifeLatency ≤ 100000 ∧
    r.knifePath ≤ 3000 ∧ 100 ≤ r.pasteHold ∧ r.pasteHold ≤ 2000 ∧ 20 ≤ r.knifePulse ∧ r.knifePulse ≤ 500 ∧
    r.brakeDelay ≤ 5000 ∧ 1000 ≤ r.brakeHold ∧ r.brakeHold ≤ 30000 ∧ 50 ≤ r.filterTime ∧ r.filterTime ≤ 2000 ∧
    r.sensorZero ≤ 14000 ∧ -10000 ≤ r.sensorSlope ∧ r.sensorSlope ≤ 10000 ∧
    16 ≤ r.dancerLow ∧ r.dancerLow < r.dancerHigh ∧ r.dancerHigh ≤ 4079 ∧ r.leadMargin ≤ 30000 ∧ r.warnTime ≤ 60000)

/-- PUT GRADE: a record out of range is refused BAD_VALUE; one for the grade of a running or head reel of a stand in RUNUP
through CUT is refused IN_USE; any other is taken and replaces the slot's record whole (R4, R5). -/
def Obligations.PutGradeChecksAndReplaces : Prop :=
  ∀ (s : State) (t : Time) (f : Frame) (g : Fin 32), s.CanTake f → f.verb = 0x50 → 25 ≤ f.payload.length →
    f.payload.head? = some (BitVec.ofNat 8 g.val) →
    let r := gradeOfPayload f.payload
    let x := s.taking t f
    let used : Prop := ∃ i, (s.stand i).ctx.state.splicing = true ∧
      ((∃ a, (s.stand i).running = some a ∧ a.grade = g) ∨ ∃ a, (s.stand i).queue.head? = some a ∧ a.grade = g)
    (gradeInRange r = false → exec (.putGrade t) s = .next (x.replied f .badValue [])) ∧
    (gradeInRange r = true → used → exec (.putGrade t) s = .next (x.replied f .inUse [])) ∧
    (gradeInRange r = true → ¬ used →
      exec (.putGrade t) s = .next (State.replied { x with grades := x.grades.set g (some r) } f .accepted []))

/-- PUT STAND, for a payload that makes a record in range: refused IN_USE outside the resting states; else the record is
replaced whole, a changed web slot marks D_run held, a slot newly in use has its tracker at the values of NONE, one that
leaves use has its timers disarmed, and a change of the enabled field clears auto and settles the context (R7, R8, R26,
R62). -/
def Obligations.PutStandReplacesRecord : Prop :=
  ∀ (s : State) (t : Time) (f : Frame) (i : StandNo) (r : StandRecord), s.CanTake f → f.verb = 0x51 →
    39 ≤ f.payload.length → f.payload.head? = some (BitVec.ofNat 8 (i.val + 1)) →
    standRecordOfPayload f.payload = some r → standInRange r = true →
    let x := s.taking t f
    ((s.stand i).ctx.state.resting = false → exec (.putStand t) s = .next (x.replied f .inUse [])) ∧
    ((s.stand i).ctx.state.resting = true → ∃ u : State, exec (.putStand t) s = .next (u.replied f .accepted []) ∧
      u = { x with stands := u.stands, trackers := u.trackers } ∧
      (∀ j, j ≠ i → u.stand j = x.stand j) ∧
      u.stand i = { x.stand i with
        record := r
        measured := (s.stand i).measured && r.webSlot == (s.stand i).record.webSlot
        ctx := (u.stand i).ctx
        out := { (s.stand i).out with horn := (u.stand i).out.horn } } ∧
      (r.enabled = (s.stand i).record.enabled →
        (u.stand i).ctx = (s.stand i).ctx ∧ (u.stand i).out.horn = (s.stand i).out.horn) ∧
      (r.enabled = false → (s.stand i).record.enabled = true → (s.stand i).ctx.state ≠ .off →
        (u.stand i).ctx.state = .off ∧ (u.stand i).ctx.auto = false ∧ (u.stand i).ctx.prewarn = false) ∧
      (r.enabled = true → (s.stand i).record.enabled = false → (s.stand i).ctx.state = .off → (s.stand i).ctx.auto = false →
        (u.stand i).ctx.state = .idle ∧ (u.stand i).ctx.auto = false) ∧
      ∀ k, u.tracker k =
        if u.slotInUse k = true ∧ s.slotInUse k = false then ⟨.none, 0, 0, 0, 0, 0, 0, 0, false, none, none, none⟩
        else if u.slotInUse k = false ∧ s.slotInUse k = true then
          { s.tracker k with coastingAt := none, lostAt := none, windowAt := none }
        else s.tracker k)

/-- PUT LINE and SET GROUPS: refused WRONG_MODE outside CONFIG; in CONFIG refused BAD_VALUE when a check of R10 or R11 fails;
else the record or the list is replaced whole, and a new line master sends every tracker to NONE (R10, R11, R40). -/
def Obligations.LineAndGroupsReplaced : Prop :=
  (∀ (s : State) (t : Time) (f : Frame) (a b c d e : Byte) (more : List Byte), s.CanTake f → f.verb = 0x52 →
    f.payload = a :: b :: c :: d :: e :: more →
    let x := s.taking t f
    let l : LineSettings := ⟨a, b, c.toNat, (d ++ e).toNat⟩
    let ok : Prop := a.toNat < 240 ∧ a ≠ s.port.station ∧ b ≠ s.port.station ∧ 1 ≤ c.toNat ∧ c.toNat ≤ 10 ∧
      500 ≤ (d ++ e).toNat ∧ (d ++ e).toNat ≤ 10000
    (s.mode ≠ .config → exec (.putLine t) s = .next (x.replied f .wrongMode [])) ∧
    (s.mode = .config → ¬ ok → exec (.putLine t) s = .next (x.replied f .badValue [])) ∧
    (s.mode = .config → ok → ∃ u : State, exec (.putLine t) s = .next (u.replied f .accepted []) ∧
      u = { x with line := l, trackers := u.trackers } ∧
      ∀ k, u.tracker k = if a = s.line.lineMaster then s.tracker k
        else ⟨.none, 0, 0, 0, 0, 0, 0, 0, false, none, none, none⟩)) ∧
  (∀ (s : State) (t : Time) (f : Frame) (groups more : List Byte), s.CanTake f → f.verb = 0x66 →
    f.payload = BitVec.ofNat 8 groups.length :: (groups ++ more) → groups.length < 256 →
    let x := s.taking t f
    let ok : Prop := groups.length ≤ 4 ∧ (∀ g ∈ groups, 240 ≤ g.toNat ∧ g.toNat ≤ 254) ∧ groups.Nodup
    (s.mode ≠ .config → exec (.setGroups t) s = .next (x.replied f .wrongMode [])) ∧
    (s.mode = .config → ¬ ok → exec (.setGroups t) s = .next (x.replied f .badValue [])) ∧
    (s.mode = .config → ok →
      exec (.setGroups t) s = .next (State.replied { x with port := { x.port with groups := groups } } f .accepted [])))

/-! ### Reels -/

/-- ADD REEL, DROP REEL and MARK READY that pass their checks: the record joins the tail, not ready; the record leaves and
those behind it close up, not ready; the head's ready mark is set; and the context settles. A lock held by another station
refuses ADD REEL with the stand and the holder (R15, R16, R17, R21, R169). -/
def Obligations.ReelQueueRequests : Prop :=
  (∀ (s : State) (t : Time) (f : Frame) (i : StandNo) (g : Fin 32) (gr : GradeRecord), s.CanTake f → f.verb = 0x53 →
    11 ≤ f.payload.length → f.payload.head? = some (BitVec.ofNat 8 (i.val + 1)) →
    let p := f.payload
    let x := s.taking t f
    let d := if (byteAt p 6).getLsbD 0 then some (u16 p 7) else none
    let tab := if (byteAt p 6).getLsbD 1 then some (u16 p 9) else none
    (∀ l, (s.stand i).lock = some l → l.holder ≠ f.sender →
      exec (.addReel t) s = .next (x.replied f .locked [BitVec.ofNat 8 (i.val + 1), l.holder])) ∧
    (s.LockPasses i f.sender → w32 p 1 ≠ 0 → u8 p 5 = g.val → s.grades[g] = some gr →
      (∀ v, tab = some v → v ≤ 999) → (∀ v, d = some v → gr.spliceDiameter + 1000 ≤ v ∧ v ≤ 14000) →
      s.IdFreeBut (w32 p 1) none → (s.stand i).queue.length < 3 →
      ∃ u : State, exec (.addReel t) s = .next (u.replied f .accepted []) ∧
        SettledAs i { x.stand i with queue := (s.stand i).queue ++ [⟨w32 p 1, g, d, tab, false⟩] } x u)) ∧
  (∀ (s : State) (t : Time) (f : Frame) (i : StandNo) (pre post : List ReelRecord) (r : ReelRecord), s.CanTake f →
    f.verb = 0x54 → 4 ≤ f.payload.length → r.id = w32 f.payload 0 → (s.stand i).queue = pre ++ r :: post →
    (∀ a ∈ pre, a.id ≠ r.id) → (∀ j, j ≠ i → ∀ a ∈ (s.stand j).queue, a.id ≠ r.id) →
    (∀ j a, (s.stand j).running = some a → a.id ≠ r.id) → s.LockPasses i f.sender →
    let x := s.taking t f
    let held : Prop := (s.stand i).ctx.state.splicing = true ∨ (s.stand i).ctx.state = .stopping
    (pre = [] → held → exec (.dropReel t) s = .next (x.replied f .inUse [])) ∧
    (¬ (pre = [] ∧ held) → ∃ u : State, exec (.dropReel t) s = .next (u.replied f .accepted []) ∧
      SettledAs i { x.stand i with queue := pre ++ post.map fun a => { a with ready := false } } x u)) ∧
  (∀ (s : State) (t : Time) (f : Frame) (i : StandNo) (r : ReelRecord) (rest : List ReelRecord), s.CanTake f →
    f.verb = 0x56 → 5 ≤ f.payload.length → f.payload.head? = some (BitVec.ofNat 8 (i.val + 1)) →
    r.id = w32 f.payload 1 → (s.stand i).queue = r :: rest → s.LockPasses i f.sender →
    let x := s.taking t f
    ((s.stand i).ctx.state = .stopping → exec (.markReady t) s = .next (x.replied f .wrongState [])) ∧
    ((s.stand i).ctx.state ≠ .stopping → ∃ u : State, exec (.markReady t) s = .next (u.replied f .accepted []) ∧
      SettledAs i { x.stand i with queue := { r with ready := true } :: rest } x u))

/-- SET RUNNING in a resting state installs the reel with D_run held at the diameter carried or the grade's nominal, the
runout-fired mark clear when D_run is above the runout limit; at or below it the mark is set and RUNOUT latched; reel id 0
removes the record and marks D_run held; in any other state it is refused IN_USE (R19, R20, R51). -/
def Obligations.SetRunningInstallsReel : Prop :=
  ∀ (s : State) (t : Time) (f : Frame) (i : StandNo), s.CanTake f → f.verb = 0x55 → 9 ≤ f.payload.length →
    f.payload.head? = some (BitVec.ofNat 8 (i.val + 1)) → s.LockPasses i f.sender →
    let p := f.payload
    let x := s.taking t f
    let d := if (byteAt p 6).getLsbD 0 then some (u16 p 7) else none
    (∀ (g : Fin 32) (gr : GradeRecord), w32 p 1 ≠ 0 → u8 p 5 = g.val → s.grades[g] = some gr →
      (∀ v, d = some v → gr.core ≤ v ∧ v ≤ 14000) →
      ((s.stand i).ctx.state.resting = false → exec (.setRunning t) s = .next (x.replied f .inUse [])) ∧
      ((s.stand i).ctx.state.resting = true → s.IdFreeBut (w32 p 1) (some i) →
        let n := d.getD gr.nominal
        (gr.core + gr.runoutMargin < n → ∃ u : State, exec (.setRunning t) s = .next (u.replied f .accepted []) ∧
          SettledAs i { x.stand i with running := some ⟨w32 p 1, g⟩, dRun := n, measured := false, runoutFired := false }
            x u) ∧
        (n ≤ gr.core + gr.runoutMargin → ∃ u : State, exec (.setRunning t) s = .next (u.replied f .accepted []) ∧
          (u.stand i).running = some ⟨w32 p 1, g⟩ ∧ (u.stand i).dRun = n ∧ (u.stand i).measured = false ∧
          (u.stand i).runoutFired = true ∧ hasEvent (u.stand i).events .runout = true))) ∧
    (w32 p 1 = 0 → (s.stand i).ctx.state.resting = true →
      ∃ u : State, exec (.setRunning t) s = .next (u.replied f .accepted []) ∧
        SettledAs i { x.stand i with running := none, measured := false } x u)

/-! ### The part mode -/

/-- SET MODE RUN: from CONFIG it needs a line master and valid enabled stand records, else BAD_VALUE; from CONFIG or HOLD the
mode becomes RUN and every context settles; in RUN nothing changes (R162, R163). SET MODE CONFIG: refused WRONG_STATE while a
context is outside the resting states; else the mode becomes CONFIG, every lock is freed, every auto mark cleared, and every
context is IDLE, or OFF when its stand is disabled; in CONFIG it changes nothing (R162, R165, R90). The reply carries the mode in
force. -/
def Obligations.SetModeRunAndConfig : Prop :=
  (∀ (s : State) (t : Time) (o : List StandNo) (f : Frame), s.CanTake f → f.verb = 0x60 → f.payload.head? = some 1 →
    let x := s.taking t f
    let ok : Prop := s.line.lineMaster ≠ 0 ∧ ∀ i, (s.stand i).record.enabled = true →
      standInRange (s.stand i).record = true ∧ (s.stand i).record.driveStation ≠ s.line.lineMaster ∧
        (s.stand i).record.driveStation ≠ s.port.station
    (s.mode = .config → ¬ ok → exec (.setModeRun t o) s = .next (x.replied f .badValue [0])) ∧
    (s.mode = .config ∧ ok ∨ s.mode = .hold →
      ∃ u : State, exec (.setModeRun t o) s = .next (u.replied f .accepted [1]) ∧ AllSettled .run x u) ∧
    (s.mode = .run → exec (.setModeRun t o) s = .next (x.replied f .accepted [1]))) ∧
  (∀ (s : State) (t : Time) (o : List StandNo) (f : Frame), s.CanTake f → f.verb = 0x60 → f.payload.head? = some 0 →
    let x := s.taking t f
    (s.mode = .config → exec (.setModeConfig t o) s = .next (x.replied f .accepted [0])) ∧
    (s.mode ≠ .config → (∃ i, (s.stand i).ctx.state.resting = false) →
      exec (.setModeConfig t o) s = .next (x.replied f .wrongState [BitVec.ofNat 8 s.mode.code])) ∧
    (s.mode ≠ .config → (∀ i, (s.stand i).ctx.state.resting = true) →
      ∃ u : State, exec (.setModeConfig t o) s = .next (u.replied f .accepted [0]) ∧
        u = { x with mode := .config, stands := u.stands } ∧
        ∀ i, u.stand i = { s.stand i with
            ctx := (u.stand i).ctx
            out := { (s.stand i).out with horn := (u.stand i).out.horn }
            lock := none } ∧
          (u.stand i).ctx.auto = false ∧
          (u.stand i).ctx.state = if (s.stand i).record.enabled then .idle else .off))

/-- SET MODE HOLD in RUN, and a LINE HOLD frame whose payload check is good in RUN, change the mode to HOLD: splices in RUNUP
through FIRE_SET abort with cause HOLD and every other context settles. In HOLD neither changes the mode or a context; in
CONFIG SET MODE HOLD is refused WRONG_MODE and a LINE HOLD is ignored (R89, R162, R164, R153). The frame's sender is the line
master station, as R164 has it. -/
def Obligations.HoldAbortsSplices : Prop :=
  (∀ (s : State) (t : Time) (o : List StandNo) (f : Frame), s.CanTake f → f.verb = 0x60 → f.payload.head? = some 2 →
    let x := s.taking t f
    (s.mode = .run → ∃ u : State, exec (.setModeHold t o) s = .next (u.replied f .accepted [2]) ∧ HeldFrom x u) ∧
    (s.mode = .hold → exec (.setModeHold t o) s = .next (x.replied f .accepted [2])) ∧
    (s.mode = .config → exec (.setModeHold t o) s = .next (x.replied f .wrongMode [0]))) ∧
  (∀ (s : State) (t : Time) (o : List StandNo) (h : Header) (p : List Byte), s.port.reading = .onArrival h →
    h.verb = 0x11 → h.sender = s.line.lineMaster → p.length = h.length.toNat →
    let slot := !s.port.headerAck
    let x : State := { s with
      clock := t
      port := { s.port with
        reading := .none
        payloadAck := decide (h.target.toNat < 240)
        runs := s.port.runs.read (slot :: cells slot (p ++ [crcBytes p])) } }
    (s.mode = .run → ∃ u : State, exec (.lineHold t p (crcBytes p) o) s = .next u ∧ HeldFrom x u) ∧
    (s.mode ≠ .run → exec (.lineHold t p (crcBytes p) o) s = .next x))

/-! ### Stand orders -/

/-- AUTO ON outside CONFIG and AUTO OFF in any mode set and clear the auto mark outside OFF, and the context settles; in OFF
both are refused WRONG_STATE; AUTO ON in CONFIG is refused WRONG_MODE (R63, R61). -/
def Obligations.AutoOrdersSettle : Prop :=
  ∀ (s : State) (t : Time) (f : Frame) (i : StandNo) (more : List Byte), s.CanTake f → f.verb = 0x61 →
    let x := s.taking t f
    (f.payload = BitVec.ofNat 8 (i.val + 1) :: 1 :: more →
      (s.mode = .config → exec (.standOrderAutoOn t) s = .next (x.replied f .wrongMode [])) ∧
      (s.mode ≠ .config → s.LockPasses i f.sender → (s.stand i).ctx.state = .off →
        exec (.standOrderAutoOn t) s = .next (x.replied f .wrongState [])) ∧
      (s.mode ≠ .config → s.LockPasses i f.sender → (s.stand i).ctx.state ≠ .off →
        ∃ u : State, exec (.standOrderAutoOn t) s = .next (u.replied f .accepted []) ∧
          SettledAs i { x.stand i with ctx := { (s.stand i).ctx with auto := true } } x u)) ∧
    (f.payload = BitVec.ofNat 8 (i.val + 1) :: 2 :: more → s.LockPasses i f.sender →
      ((s.stand i).ctx.state = .off → exec (.standOrderAutoOff t) s = .next (x.replied f .wrongState [])) ∧
      ((s.stand i).ctx.state ≠ .off → ∃ u : State, exec (.standOrderAutoOff t) s = .next (u.replied f .accepted []) ∧
        SettledAs i { x.stand i with ctx := { (s.stand i).ctx with auto := false } } x u))

/-- SPLICE NOW in RUN: from WATCH, when V is at least 500, the tracker is in TRACKING with its low-window mark clear and the
FRESH channel has no fault, RUNUP is entered with the EARLY mark; when one fails WRONG_STATE; in RUNUP the EARLY mark is set;
in MATCHED with a FRESH period T held, FIRE_WAIT is entered with the missing-tab timer at 3 × T (R68, R67, R72). -/
def Obligations.SpliceNowActs : Prop :=
  ∀ (s : State) (t : Time) (f : Frame) (i : StandNo) (more : List Byte), s.CanTake f → f.verb = 0x61 →
    f.payload = BitVec.ofNat 8 (i.val + 1) :: 3 :: more → s.LockPasses i f.sender →
    let x := s.taking t f
    let k := s.tracker (s.stand i).record.webSlot
    let ready : Prop := 500 ≤ k.v ∧ k.state = .tracking ∧ k.lowWindow = false ∧ (s.stand i).freshCh.fault = false
    (s.mode ≠ .run → exec (.standOrderSpliceNow t) s = .next (x.replied f .wrongMode [])) ∧
    (s.mode = .run → (s.stand i).ctx.state = .watch → ¬ ready →
      exec (.standOrderSpliceNow t) s = .next (x.replied f .wrongState [])) ∧
    (∀ r, s.mode = .run → (s.stand i).ctx.state = .watch → ready → (s.stand i).queue.head? = some r →
      (∀ d ∈ s.port.waitingDrives, d.stand ≠ i) →
      ∃ u : State, exec (.standOrderSpliceNow t) s = .next (u.replied f .accepted []) ∧ RunUpEntered i r true x u) ∧
    (s.mode = .run → (s.stand i).ctx.state = .runUp →
      exec (.standOrderSpliceNow t) s =
        .next ((x.setStand i { x.stand i with ctx := { (s.stand i).ctx with early := true } }).replied f .accepted [])) ∧
    (∀ period, s.mode = .run → (s.stand i).ctx.state = .matched → (s.stand i).freshCh.lastPeriod = some period →
      ∃ h : Horn, h.pattern = .continuous ∧ exec (.standOrderSpliceNow t) s =
        .next ((x.setStand i { x.stand i with
          ctx := { (s.stand i).ctx with
            state := .fireWait
            early := true
            missingTabAt := some (t + BitVec.ofNat 32 (3 * period)) }
          out := { (s.stand i).out with horn := h } }).replied f .accepted []))

/-- STAND ORDER ABORT, from any station and in any mode: before the paster has fired it aborts with cause ORDER; in PASTING
and CUT it is answered TOO_LATE; elsewhere WRONG_STATE (R82, R83, R84). MANUAL TRACK ON and OFF in RUN, in RUNUP and MATCHED: the
mark is set with the mode TRACK, or cleared with the mode ACQUIRE unless LOCKED is set; an order that finds the mark as it asks
changes nothing; in any other state WRONG_STATE, in CONFIG and HOLD WRONG_MODE (R100). -/
def Obligations.AbortAndManualTrackOrders : Prop :=
  (∀ (s : State) (t : Time) (f : Frame) (i : StandNo) (more : List Byte), s.CanTake f → f.verb = 0x61 →
    f.payload = BitVec.ofNat 8 (i.val + 1) :: 4 :: more →
    let x := s.taking t f
    ((s.stand i).ctx.state.beforeFire = true →
      ∃ u : State, exec (.standOrderAbort t) s = .next (u.replied f .accepted []) ∧ AbortedBy i .order [] x u) ∧
    ((s.stand i).ctx.state.pastFire = true → exec (.standOrderAbort t) s = .next (x.replied f .tooLate [])) ∧
    ((s.stand i).ctx.state.splicing = false → exec (.standOrderAbort t) s = .next (x.replied f .wrongState []))) ∧
  (∀ (s : State) (t : Time) (f : Frame) (i : StandNo) (more : List Byte), s.CanTake f → f.verb = 0x61 →
    s.LockPasses i f.sender →
    let x := s.taking t f
    let l := (s.stand i).loop
    let there : Prop := (s.stand i).ctx.state = .runUp ∨ (s.stand i).ctx.state = .matched
    (f.payload = BitVec.ofNat 8 (i.val + 1) :: 5 :: more →
      (s.mode ≠ .run → exec (.standOrderManualTrackOn t) s = .next (x.replied f .wrongMode [])) ∧
      (s.mode = .run → ¬ there → exec (.standOrderManualTrackOn t) s = .next (x.replied f .wrongState [])) ∧
      (s.mode = .run → there → l.manual = true → exec (.standOrderManualTrackOn t) s = .next (x.replied f .accepted [])) ∧
      (s.mode = .run → there → l.manual = false → exec (.standOrderManualTrackOn t) s =
        .next ((x.setStand i { x.stand i with loop := { l with manual := true, mode := .track } }).replied f .accepted
          []))) ∧
    (f.payload = BitVec.ofNat 8 (i.val + 1) :: 6 :: more →
      (s.mode ≠ .run → exec (.standOrderManualTrackOff t) s = .next (x.replied f .wrongMode [])) ∧
      (s.mode = .run → ¬ there → exec (.standOrderManualTrackOff t) s = .next (x.replied f .wrongState [])) ∧
      (s.mode = .run → there → l.manual = false →
        exec (.standOrderManualTrackOff t) s = .next (x.replied f .accepted [])) ∧
      (s.mode = .run → there → l.manual = true → exec (.standOrderManualTrackOff t) s =
        .next ((x.setStand i { x.stand i with
          loop := { l with manual := false, mode := if l.locked then .track else .acquire } }).replied f .accepted []))))

/-! ### Locks and latches -/

/-- TAKE CONTROL of a free stand makes the sender the holder with the expiry 5,000,000 µs on; GIVE CONTROL by the holder frees
it; either request for a stand held by another is refused LOCKED with the holder; GIVE CONTROL of a free stand changes
nothing; a held lock at its expiry becomes free (R167, R168, R170). -/
def Obligations.ControlLocksTakenAndFreed : Prop :=
  (∀ (s : State) (t : Time) (f : Frame) (i : StandNo) (more : List Byte), s.CanTake f →
    f.payload = BitVec.ofNat 8 (i.val + 1) :: more →
    let x := s.taking t f
    let n : Byte := BitVec.ofNat 8 (i.val + 1)
    (f.verb = 0x62 → (s.stand i).lock = none → exec (.takeControl t) s =
      .next ((x.setStand i { x.stand i with lock := some ⟨f.sender, t + 5000000⟩ }).replied f .accepted [n, f.sender])) ∧
    (∀ l, f.verb = 0x62 → (s.stand i).lock = some l → exec (.takeControl t) s =
      .next (x.replied f (if l.holder = f.sender then .accepted else .locked) [n, l.holder])) ∧
    (f.verb = 0x63 → (s.stand i).lock = none → exec (.giveControl t) s = .next (x.replied f .accepted [n, 0])) ∧
    (∀ l, f.verb = 0x63 → (s.stand i).lock = some l → l.holder = f.sender → exec (.giveControl t) s =
      .next ((x.setStand i { x.stand i with lock := none }).replied f .accepted [n, 0])) ∧
    (∀ l, f.verb = 0x63 → (s.stand i).lock = some l → l.holder ≠ f.sender →
      exec (.giveControl t) s = .next (x.replied f .locked [n, l.holder]))) ∧
  (∀ (s : State) (t : Time) (i : StandNo) (l : ControlLock), (s.stand i).lock = some l → l.expiry = t →
    exec (.lockExpiry t i) s = .next (({ s with clock := t } : State).setStand i { s.stand i with lock := none }))

/-- CLEAR LATCH with kind interlock answers by the four rows of R123, in any mode and whoever holds the stand's lock; addressed
to a group or to 255 it has the same effect and gets no reply. No event is raised and nothing else is changed. -/
def Obligations.ClearInterlockAnswers : Prop :=
  ∀ (s : State) (t : Time) (f : Frame) (n : Byte) (more : List Byte), f.verb = 0x64 → f.payload = 0 :: n :: more →
    let cleared (i : StandNo) (x : State) : State :=
      x.setStand i { x.stand i with out := { (x.stand i).out with latch := false } }
    (s.CanTake f →
      let x := s.taking t f
      (n.toNat < 1 ∨ 6 < n.toNat → exec (.clearLatchInterlock t) s = .next (x.replied f .badValue [])) ∧
      ∀ i : StandNo, n = BitVec.ofNat 8 (i.val + 1) →
        ((s.stand i).out.latch = true → (s.stand i).out.guardOpen = false →
          exec (.clearLatchInterlock t) s = .next ((cleared i x).replied f .accepted [])) ∧
        ((s.stand i).out.latch = true → (s.stand i).out.guardOpen = true →
          exec (.clearLatchInterlock t) s = .next (x.replied f .wrongState [])) ∧
        ((s.stand i).out.latch = false → exec (.clearLatchInterlock t) s = .next (x.replied f .accepted []))) ∧
    (s.port.rx.head? = some f → 240 ≤ f.target.toNat → s.port.handlerSlot = false →
      let x : State := { s with clock := t, port := { s.port with rx := s.port.rx.tail } }
      (n.toNat < 1 ∨ 6 < n.toNat → exec (.clearLatchInterlock t) s = .next x) ∧
      ∀ i : StandNo, n = BitVec.ofNat 8 (i.val + 1) → exec (.clearLatchInterlock t) s =
        .next (if (s.stand i).out.latch = true ∧ (s.stand i).out.guardOpen = false then cleared i x else x))

/-- CLEAR LATCH with kind events clears the marks of the kinds named and keeps the others; a kind that names none of the
sixteen, or one that appears twice, is refused BAD_VALUE (R136, R173). -/
def Obligations.ClearEventsClearsKindsNamed : Prop :=
  ∀ (s : State) (t : Time) (f : Frame) (i : StandNo) (kinds more : List Byte), s.CanTake f → f.verb = 0x64 →
    f.payload = 1 :: BitVec.ofNat 8 (i.val + 1) :: BitVec.ofNat 8 kinds.length :: (kinds ++ more) → kinds.length < 256 →
    let x := s.taking t f
    let ok : Prop := (∀ k ∈ kinds, k.toNat < 16) ∧ kinds.Nodup
    (¬ ok → exec (.clearLatchEvents t) s = .next (x.replied f .badValue [])) ∧
    (ok → ∃ e : EventSet, exec (.clearLatchEvents t) s =
        .next ((x.setStand i { x.stand i with events := e }).replied f .accepted []) ∧
      ∀ k : Nat, e.getLsbD k = ((s.stand i).events.getLsbD k && !(kinds.any fun a => a.toNat == k)))

/-! ### Line samples and trackers -/

/-- A LINE SAMPLE with a good payload check from the line master reaches the tracker of every slot in use, each of which
processes it against its own state; it is acknowledged when addressed to the part alone, and changes no table, no mode and no
receive queue (R27, R28, R153). That a payload below 29 bytes is not handed on is the model's reading (log entry 20). The stands
hear what the tracker of their slot made of it (R35): a sample ignored or rejected, or one that becomes the anchor, changes no
stand; a re-acquire returns FIRE_SET to FIRE_WAIT with the paster timer disarmed (R75); an accepted one below 500 mm/s aborts a
splice before fire with SPEED_LOW (R83); else it is the context's matter and, of a loop that was RUNNING, a ramp of the
reference, in the order in which the two matters are taken, which the command names (log entry 5); a loop that RUNUP entry sets
running at this sample keeps its reference 0 (R94, R95). -/
def Obligations.LineSampleReachesTrackers : Prop :=
  ∀ (s : State) (t : Time) (o : List Matter) (h : Header) (p : List Byte), s.port.reading = .onArrival h →
    h.verb = 0x10 → h.sender = s.line.lineMaster → s.line.lineMaster ≠ 0 → p.length = h.length.toNat → 29 ≤ p.length →
    let took (k : SlotNo) : Tracker × SampleEvent :=
      if s.slotInUse k then (s.tracker k).sample (byteAt p 0) (w32 p 1) (w32 p (5 + 4 * k.val)) t s.line.rateLimit
      else (s.tracker k, .silent)
    let slot := !s.port.headerAck
    ∃ x u : State, exec (.lineSample t p (crcBytes p) o) s = .next u ∧ u.clock = t ∧ u.mode = s.mode ∧ u.grades = s.grades ∧
      u.line = s.line ∧ u.port.rx = s.port.rx ∧ u.port.reading = .none ∧
      u.port.payloadAck = decide (h.target.toNat < 240) ∧
      u.port.runs = s.port.runs.read (slot :: cells slot (p ++ [crcBytes p])) ∧
      (∀ k, u.tracker k = (took k).1) ∧
      (∀ k, x.tracker k = (took k).1) ∧
      x = { s with
        clock := t
        trackers := x.trackers
        port := { s.port with
          reading := .none
          payloadAck := decide (h.target.toNat < 240)
          runs := s.port.runs.read (slot :: cells slot (p ++ [crcBytes p])) } } ∧
      (∀ i : StandNo,
        let e := (took (s.stand i).record.webSlot).2
        let v := (took (s.stand i).record.webSlot).1.v
        let was := s.stand i
        let now := u.stand i
        (e = .silent ∨ e = .anchored → now = was) ∧
        (e = .reacquired → was.ctx.state ≠ .fireSet → now = was) ∧
        (e = .reacquired → was.ctx.state = .fireSet → now = { was with
          ctx := { was.ctx with state := .fireWait }
          out := { was.out with pasterAt := none, horn := now.out.horn } }) ∧
        (∀ dt, e = .accepted dt → was.ctx.state.beforeFire = true → v < 500 →
          now.ctx.state = .stopping ∧ now.ctx.cause = some .speedLow ∧ now.out.pasterAt = none ∧
            now.loop.activity = .stopped) ∧
        (∀ dt, e = .accepted dt → was.ctx.state ≠ .watch → was.ctx.state.beforeFire = false ∨ 500 ≤ v →
          now = { was with loop := now.loop } ∧
          (was.loop.activity ≠ .running → now.loop = was.loop) ∧
          (was.loop.activity = .running →
            (now.loop = was.loop ∨ now.loop = { was.loop with reference := x.rampedSpeed i dt }) ∧
            ((∃ a ∈ s.port.tx, a.begun = false ∧ ∃ w, a.body = .reference i w) →
              now.loop = { was.loop with reference := x.rampedSpeed i dt } ∧
              ∃ a ∈ u.port.tx, a.begun = false ∧ a.body = .reference i (x.rampedSpeed i dt)))) ∧
        (∀ dt, e = .accepted dt → was.ctx.state = .watch → was.loop.activity ≠ .running →
          now.ctx = ((x.contextHears i e).stand i).ctx ∧ now.loop = ((x.contextHears i e).stand i).loop ∧
          (now.ctx.state = .watch ∧ now.loop = was.loop ∨
            now.ctx.state = .runUp ∧ now.loop = ⟨.running, .acquire, 0, 0, 0, false, false, 0⟩))) ∧
      ∀ (i : StandNo) (dt : Nat), (took (s.stand i).record.webSlot).2 = .accepted dt →
        (∀ j, j ≠ i → (took (s.stand j).record.webSlot).2 = .silent ∨ (took (s.stand j).record.webSlot).2 = .anchored) →
        let ramp (y : State) : State :=
          if (s.stand i).loop.activity = .running ∧ (y.stand i).loop.activity = .running then y.updateReference i dt else y
        (o = [⟨i, .loop⟩, ⟨i, .context⟩] → u = (ramp x).contextHears i (.accepted dt)) ∧
        (o = [⟨i, .context⟩, ⟨i, .loop⟩] → u = ramp (x.contextHears i (.accepted dt)))

/-- A tracker in NONE or LOST takes any sample as its anchor; in ACQUIRING, TRACKING and COASTING a duplicate or stale sample
is ignored; in ACQUIRING a sample that R31 passes is accepted with V its measured speed, and in TRACKING or COASTING one
within the plausibility limit moves V a quarter of the way (R29 to R33, R35). A sample that R31 or R33 rejects raises the reject
run and changes nothing else; the third in a row becomes the anchor: the tracker re-acquires, keeping V (R34). That the window
count stays at 255 is the model's choice (log entry 13). -/
def Obligations.TrackerJudgesSamples : Prop :=
  (∀ (k : Tracker) (n : Byte) (lt : Time) (p : Pos) (now : Time) (rate : Nat),
    let dn := (n - k.lastNumber).toNat
    let dt := (lt - k.lastLineTime).toNat
    let vm := ((p - k.anchor).toInt * 100000).tdiv dt
    let live : Prop := k.state = .acquiring ∨ k.state = .tracking ∨ k.state = .coasting
    let taken (v : Nat) : Tracker := { k with
      state := .tracking, lastNumber := n, lastLineTime := lt, anchor := p, anchorTime := now, v := v, rejectRun := 0
      windowCount := min 255 (k.windowCount + 1)
      coastingAt := some (now + 30000), lostAt := some (now + 250000) }
    (k.state = .none ∨ k.state = .lost → k.sample n lt p now rate = ({ k with
      state := .acquiring, lastNumber := n, lastLineTime := lt, anchor := p, anchorTime := now, v := 0, rejectRun := 0
      windowCount := min 255 (k.windowCount + 1)
      coastingAt := none, lostAt := some (now + 250000)
      windowAt := if k.state = .none then some (now + 100000) else k.windowAt }, .anchored)) ∧
    (live → dn = 0 ∨ 128 ≤ dn → k.sample n lt p now rate = (k, .silent)) ∧
    (1 ≤ dn → dn ≤ 127 → 1 ≤ dt → dt ≤ 1000000 → 0 ≤ vm →
      (k.state = .acquiring → k.sample n lt p now rate = (taken (min 16000 vm.toNat), .accepted dt)) ∧
      (k.state = .tracking ∨ k.state = .coasting → (vm - k.v).natAbs ≤ rate * dt / 1000000 + 50 →
        ∃ v : Nat, (v : Int) = max 0 (min 16000 (k.v + (vm - k.v).tdiv 4)) ∧
          k.sample n lt p now rate = (taken v, .accepted dt)))) ∧
  (∀ (k : Tracker) (n : Byte) (lt : Time) (p : Pos) (now : Time) (rate : Nat),
    let dn := (n - k.lastNumber).toNat
    let dt := (lt - k.lastLineTime).toNat
    let vm := ((p - k.anchor).toInt * 100000).tdiv dt
    k.state = .acquiring ∨ k.state = .tracking ∨ k.state = .coasting → 1 ≤ dn → dn ≤ 127 →
    (dt = 0 ∨ 1000000 < dt ∨ vm < 0 ∨ (k.state ≠ .acquiring ∧ rate * dt / 1000000 + 50 < (vm - k.v).natAbs)) →
    (k.rejectRun < 2 → k.sample n lt p now rate = ({ k with rejectRun := k.rejectRun + 1 }, .silent)) ∧
    (k.rejectRun = 2 → k.sample n lt p now rate = ({ k with
      state := .acquiring, lastNumber := n, lastLineTime := lt, anchor := p, anchorTime := now, rejectRun := 0
      windowCount := min 255 (k.windowCount + 1)
      coastingAt := none, lostAt := some (now + 250000) }, .reacquired)))

/-- The COASTING expiry of a tracker in TRACKING takes it to COASTING with V kept, and returns a stand of the slot in FIRE_SET
to FIRE_WAIT with its paster timer disarmed (R36, R75). The LOST expiry takes it to LOST with V 0, latches TRACK_LOST on every
stand that names the slot and aborts their splices before fire (R37, R83). A window close sets the low-window mark when fewer
samples than the minimum were taken and clears it otherwise, returns the count to 0 and re-arms the timer; a rise latches
SAMPLES_LOW on the stands that name the slot (R38). No other stand is touched. That a stand out of use acts too is the model's
reading (log entry 15). -/
def Obligations.TrackerTimersExpire : Prop :=
  (∀ (s : State) (t : Time) (k : SlotNo) (o : List StandNo), (s.tracker k).coastingAt = some t →
    (s.tracker k).state = .tracking →
    ∃ u : State, exec (.coastingExpiry t k o) s = .next u ∧ u.clock = t ∧ u.port = s.port ∧ u.log = s.log ∧
      (∀ j, u.tracker j = if j = k then { s.tracker k with coastingAt := none, state := .coasting } else s.tracker j) ∧
      ∀ i, if (s.stand i).record.webSlot = k ∧ (s.stand i).ctx.state = .fireSet then
          (u.stand i).ctx = { (s.stand i).ctx with state := .fireWait } ∧ (u.stand i).out.pasterAt = none
        else u.stand i = s.stand i) ∧
  (∀ (s : State) (t : Time) (k : SlotNo) (o : List StandNo), (s.tracker k).lostAt = some t →
    (s.tracker k).state = .acquiring ∨ (s.tracker k).state = .tracking ∨ (s.tracker k).state = .coasting →
    ∃ u : State, exec (.lostExpiry t k o) s = .next u ∧ u.clock = t ∧ u.mode = s.mode ∧
      (∀ j, u.tracker j =
        if j = k then { s.tracker k with lostAt := none, coastingAt := none, state := .lost, v := 0 } else s.tracker j) ∧
      ∀ i, if (s.stand i).record.webSlot = k then
          hasEvent (u.stand i).events .trackLost = true ∧
          if (s.stand i).ctx.state.beforeFire then
            (u.stand i).ctx.state = .stopping ∧ (u.stand i).ctx.cause = some .trackLost ∧
              (u.stand i).out.pasterAt = none ∧ (u.stand i).loop.activity = .stopped
          else u.stand i = { s.stand i with events := withEvent (s.stand i).events .trackLost }
        else u.stand i = s.stand i) ∧
  (∀ (s : State) (t : Time) (k : SlotNo) (o : List StandNo), (s.tracker k).windowAt = some t →
    let low := decide ((s.tracker k).windowCount < s.line.minSamples)
    ∃ u : State, exec (.windowClose t k o) s = .next u ∧ u.clock = t ∧ u.log = s.log ∧
      (∀ j, u.tracker j =
        if j = k then { s.tracker k with windowAt := some (t + 100000), windowCount := 0, lowWindow := low }
        else s.tracker j) ∧
      ∀ i, u.stand i =
        if (s.stand i).record.webSlot = k ∧ low = true ∧ (s.tracker k).lowWindow = false then
          { s.stand i with events := withEvent (s.stand i).events .samplesLow }
        else s.stand i)

/-- The extrapolated position is the anchor plus floor(V × elapsed / 100,000), modulo 2^32, with the values that R25 and R37
give V and the anchor in NONE and LOST; in NONE it is 0 and in LOST the anchor (R39). -/
def Obligations.ExtrapolatedPosition : Prop :=
  ∀ (k : Tracker) (t : Time), (k.state = .none → k.v = 0 ∧ k.anchor = 0) → (k.state = .lost → k.v = 0) →
    k.position t = BitVec.ofNat 32 (k.anchor.toNat + k.v * (t - k.anchorTime).toNat / 100000) ∧
      (k.state = .none → k.position t = 0) ∧ (k.state = .lost → k.position t = k.anchor)

/-! ### Reel sensing -/

/-- A change of a pulse input away from its accepted level begins a pending change with the filter time in force; a return
before acceptance ends it as a glitch, counted in STARTING and TURNING and latching NOISE on an enabled stand (R43, R46,
R48). From the eighth glitch the fault mark is set: its rise latches SENSOR_FAULT on an enabled stand and aborts a splice before
fire with cause SENSOR_FAULT (R46, R83). -/
def Obligations.PulseInputChangeFilters : Prop :=
  ∀ (s : State) (t : Time) (i : StandNo) (ch : Channel) (high : Bool),
    let c := (s.stand i).channel ch
    let x : State := { s with clock := t }
    let y : Stand := (s.stand i).setChannel ch (PulseChannel.glitch { c with input := high, change := none })
    (c.input = c.accepted → high ≠ c.input → c.change = none → exec (.pulseInputChange t i ch high) s =
      .next (x.setStand i ((s.stand i).setChannel ch { c with
        input := high, change := some ⟨t, (s.stand i).record.filterTime⟩ }))) ∧
    (high ≠ c.input → c.change ≠ none → (c.state = .stopped ∨ c.glitches < 7 ∨ c.fault = true) →
      ∃ u : State, exec (.pulseInputChange t i ch high) s = .next u ∧ KeepsOthers i s u ∧ u.log = s.log ∧
        u.stand i = { y with
          events := if (s.stand i).record.enabled then withEvent (s.stand i).events .noise else (s.stand i).events }) ∧
    (high ≠ c.input → c.change ≠ none → c.state ≠ .stopped → 7 ≤ c.glitches → c.fault = false →
      let ks : List EventKind := if (s.stand i).record.enabled then [.noise, .sensorFault] else []
      ((s.stand i).ctx.state.beforeFire = true → ∃ u : State, exec (.pulseInputChange t i ch high) s = .next u ∧
        AbortedBy i .sensorFault ks (x.setStand i y) u) ∧
      ((s.stand i).ctx.state.beforeFire = false → ∃ u : State, exec (.pulseInputChange t i ch high) s = .next u ∧
        KeepsOthers i s u ∧ u.log = s.log ∧ u.stand i = { y with events := latched (s.stand i).events ks })) ∧
    (∀ a : PulseChannel, PulseChannel.glitch a =
      if a.state = .stopped then a
      else if a.glitches < 7 then { a with glitches := a.glitches + 1 }
      else { a with glitches := a.glitches + 1, fault := true, validRun := 0 })

/-- A mark in STOPPED is taken as a reference; in STARTING and TURNING a period below 20,000 µs is rejected and one of 20,000
to 8,000,000 µs is valid (R44, R46). A pending change is accepted when it has held for its filter time; a falling one, a first
mark, a rejected period that is not the third in a row, and a mark on a stand that is not enabled change the channel alone (R43,
R48). The third rejection in a row sets the fault mark: its rise latches SENSOR_FAULT on an enabled stand and aborts a splice
before fire with cause SENSOR_FAULT (R46, R83). -/
def Obligations.MarksMeasurePeriods : Prop :=
  (∀ (c : PulseChannel) (now : Time), c.state = .stopped →
    c.mark now = ({ c with
      state := .starting, lastMark := some now, stoppedAt := some (now + 8000000), glitches := 0 }, none)) ∧
  (∀ (c : PulseChannel) (now m : Time), c.state ≠ .stopped → c.lastMark = some m →
    let p := (now - m).toNat
    (p < 20000 → c.mark now = ({ c with
      rejectRun := min 3 (c.rejectRun + 1), validRun := 0, fault := c.fault || decide (2 ≤ c.rejectRun) }, none)) ∧
    (20000 ≤ p → p ≤ 8000000 → c.mark now = ({ c with
      state := .turning, lastMark := some now, lastPeriod := some p, stoppedAt := some (now + 8000000), glitches := 0
      rejectRun := 0, validRun := c.validRun + 1, fault := c.fault && decide (c.validRun < 2) }, some p))) ∧
  (∀ (s : State) (t : Time) (i : StandNo) (ch : Channel) (first : Bool) (g : PendingChange),
    let c := (s.stand i).channel ch
    let x : State := { s with clock := t }
    c.change = some g → g.since + BitVec.ofNat 32 g.filter = t →
    (c.accepted = true → exec (.changeAccepted t i ch first) s =
      .next (x.setStand i ((s.stand i).setChannel ch { c with accepted := false, change := none }))) ∧
    (c.accepted = false → c.state = .stopped → exec (.changeAccepted t i ch first) s =
      .next (x.setStand i ((s.stand i).setChannel ch { c with
        accepted := true, change := none, state := .starting, lastMark := some t, stoppedAt := some (t + 8000000)
        glitches := 0 }))) ∧
    (∀ m, c.accepted = false → c.state ≠ .stopped → c.lastMark = some m → (t - m).toNat < 20000 →
      let y : Stand := (s.stand i).setChannel ch { c with
        accepted := true, change := none
        rejectRun := min 3 (c.rejectRun + 1), validRun := 0, fault := c.fault || decide (2 ≤ c.rejectRun) }
      let ks : List EventKind := if (s.stand i).record.enabled then [.sensorFault] else []
      (c.fault = true ∨ c.rejectRun < 2 → exec (.changeAccepted t i ch first) s = .next (x.setStand i y)) ∧
      (c.fault = false → 2 ≤ c.rejectRun →
        ((s.stand i).ctx.state.beforeFire = true → ∃ u : State, exec (.changeAccepted t i ch first) s = .next u ∧
          AbortedBy i .sensorFault ks (x.setStand i y) u) ∧
        ((s.stand i).ctx.state.beforeFire = false → ∃ u : State, exec (.changeAccepted t i ch first) s = .next u ∧
          KeepsOthers i s u ∧ u.log = s.log ∧ u.stand i = { y with events := latched (s.stand i).events ks }))) ∧
    (c.accepted = false → (s.stand i).record.enabled = false → (s.stand i).ctx.state = .off → (s.stand i).ctx.auto = false →
      exec (.changeAccepted t i ch first) s = .next (x.setStand i
        ((s.stand i).setChannel ch (PulseChannel.mark { c with accepted := true, change := none } t).1))))

/-- The stopped timer's expiry takes a channel to STOPPED with its mark, period, counts and fault cleared; on the FRESH channel
V_f becomes 0, a context in STOPPING settles with its timer disarmed, and one in FIRE_WAIT or FIRE_SET aborts with NO_TAB
(R45, R52, R72, R85). -/
def Obligations.StoppedTimerExpires : Prop :=
  ∀ (s : State) (t : Time) (i : StandNo),
    let x : State := { s with clock := t }
    let stopped (c : PulseChannel) : PulseChannel := { c with
      state := .stopped, lastMark := none, lastPeriod := none, stoppedAt := none, glitches := 0, rejectRun := 0
      validRun := 0, fault := false }
    let y : Stand := { s.stand i with freshCh := stopped (s.stand i).freshCh, vFresh := 0 }
    ((s.stand i).runCh.stoppedAt = some t → exec (.stoppedTimerExpiry t i .run) s =
      .next (x.setStand i { s.stand i with runCh := stopped (s.stand i).runCh })) ∧
    ((s.stand i).freshCh.stoppedAt = some t →
      ((s.stand i).ctx.state = .fireWait ∨ (s.stand i).ctx.state = .fireSet →
        ∃ u : State, exec (.stoppedTimerExpiry t i .fresh) s = .next u ∧ AbortedBy i .noTab [] (x.setStand i y) u) ∧
      ((s.stand i).ctx.state = .stopping → ∃ u : State, exec (.stoppedTimerExpiry t i .fresh) s = .next u ∧
        (u.stand i).vFresh = 0 ∧ (u.stand i).freshCh = stopped (s.stand i).freshCh ∧
        (u.stand i).ctx.stoppingAt = none ∧ (u.stand i).ctx.state = restingFor s.mode (s.stand i) ∧
        (u.stand i).ctx.cause = none ∧ (u.stand i).ctx.early = false) ∧
      ((s.stand i).ctx.state ≠ .fireWait → (s.stand i).ctx.state ≠ .fireSet → (s.stand i).ctx.state ≠ .stopping →
        exec (.stoppedTimerExpiry t i .fresh) s = .next (x.setStand i y)))

/-- A conversion completes on the channel whose turn it is, and the round goes on to the next: a diameter-sensor channel
stores the code, its validity and D_sensor (R55, R56); a dancer channel counts its excursion run, and a rise to 3 aborts a
splice in MATCHED, FIRE_WAIT or FIRE_SET with TENSION and sets the excursion mark in PASTING and CUT (R57, R58, R71, R78). -/
def Obligations.ConversionCompletes : Prop :=
  ∀ (s : State) (t : Time) (code : BitVec 12) (i : StandNo),
    let x : State := { s with clock := t, scanNext := s.scanNext + 1 }
    let r := (s.stand i).record
    let valid := decide (16 ≤ code.toNat ∧ code.toNat ≤ 4079)
    let inside : Prop := 16 ≤ code.toNat ∧ code.toNat ≤ 4079 ∧ r.dancerLow ≤ code.toNat ∧ code.toNat ≤ r.dancerHigh
    let old := (s.stand i).dancer.excursionRun
    let dancer (n : Nat) : Stand := { s.stand i with dancer := ⟨code, valid, n⟩ }
    (s.scanNext.val = 6 + i.val → ∃ d : Nat,
      (d : Int) = max 0 (min 14000 ((r.sensorZero : Int) + ((code.toNat : Int) * r.sensorSlope).tdiv 1000)) ∧
      exec (.conversionCompletion t code) s = .next (x.setStand i { s.stand i with sensor := ⟨code, valid, d⟩ })) ∧
    (s.scanNext.val = i.val →
      (inside → exec (.conversionCompletion t code) s = .next (x.setStand i (dancer 0))) ∧
      (¬ inside → old ≠ 2 → exec (.conversionCompletion t code) s = .next (x.setStand i (dancer (min 3 (old + 1))))) ∧
      (¬ inside → old = 2 →
        ((s.stand i).ctx.state = .matched ∨ (s.stand i).ctx.state = .fireWait ∨ (s.stand i).ctx.state = .fireSet →
          ∃ u : State, exec (.conversionCompletion t code) s = .next u ∧ AbortedBy i .tension [] (x.setStand i (dancer 3)) u) ∧
        ((s.stand i).ctx.state.pastFire = true → exec (.conversionCompletion t code) s =
          .next (x.setStand i { dancer 3 with ctx := { (s.stand i).ctx with excursion := true } })) ∧
        ((s.stand i).ctx.state.resting = true ∨ (s.stand i).ctx.state = .runUp ∨ (s.stand i).ctx.state = .stopping →
          exec (.conversionCompletion t code) s = .next (x.setStand i (dancer 3)))))

/-- At a valid RUN period T of an enabled stand, D_run becomes floor(V × T × 113 / 35,500,000), at most 14,000, and measured,
when the tracker is in TRACKING or COASTING with V at least 300 and the channel has no fault, unless a measured D_run would rise
by more than 200; otherwise D_run keeps its value and is held (R50). Then, with a running reel whose runout has not fired and
D_run at or below core plus runout margin, the runout-fired mark is set, RUNOUT is latched, a splice before fire aborts with
RUNOUT, and in WATCH and NO_REEL a RUNOUT record is written (R51, R87, R83); else, in MATCHED with D_run at or below the running
grade's splice diameter, FIRE_WAIT is entered, or the splice aborts with NO_TAB when FRESH holds no valid period (R69, R72). A
running grade that finds no record reads as zeros, the model's choice (log entry 10). -/
def Obligations.RunningDiameterMeasured : Prop :=
  ∀ (s : State) (t m : Time) (i : StandNo) (first : Bool) (g : PendingChange),
    let c := (s.stand i).runCh
    let p := (t - m).toNat
    let k := s.tracker (s.stand i).record.webSlot
    let d := min 14000 (k.v * p * 113 / 35500000)
    let good : Prop := (k.state = .tracking ∨ k.state = .coasting) ∧ 300 ≤ k.v ∧
      (c.fault = false ∨ 2 ≤ c.validRun) ∧ ¬ ((s.stand i).measured = true ∧ (s.stand i).dRun + 200 < d)
    let was := s.stand i
    let grade := s.runningGrade i
    (s.stand i).record.enabled = true → c.accepted = false → c.change = some g →
    g.since + BitVec.ofNat 32 g.filter = t → c.state ≠ .stopped → c.lastMark = some m → 20000 ≤ p → p ≤ 8000000 →
    ∃ u : State, exec (.changeAccepted t i .run first) s = .next u ∧ KeepsOthers i s u ∧
      (u.stand i).runCh = { c with
        accepted := true, change := none
        state := .turning, lastMark := some t, lastPeriod := some p, stoppedAt := some (t + 8000000), glitches := 0
        rejectRun := 0, validRun := c.validRun + 1, fault := c.fault && decide (c.validRun < 2) } ∧
      (good → (u.stand i).dRun = d ∧ (u.stand i).measured = true) ∧
      (¬ good → (u.stand i).dRun = (s.stand i).dRun ∧ (u.stand i).measured = false) ∧
      (let now := u.stand i
        let runout : Prop := was.running ≠ none ∧ was.runoutFired = false ∧ now.dRun ≤ grade.core + grade.runoutMargin
        (runout → now.runoutFired = true ∧ hasEvent now.events .runout = true ∧
          (was.ctx.state.beforeFire = true → now.ctx.state = .stopping ∧ now.ctx.cause = some .runout ∧
            now.out.pasterAt = none ∧ now.loop.activity = .stopped ∧ u.nextSeq = s.nextSeq + 1) ∧
          (was.ctx.state = .watch ∨ was.ctx.state = .noReel → now.ctx = was.ctx ∧ u.nextSeq = s.nextSeq + 1 ∧
            ∃ r ∈ u.log, r.seq = s.nextSeq ∧ r.stand = i ∧ r.time = t ∧ r.outcome = .runout ∧ r.cause = none) ∧
          (was.ctx.state.beforeFire = false → was.ctx.state ≠ .watch → was.ctx.state ≠ .noReel →
            now.ctx = was.ctx ∧ u.log = s.log)) ∧
        (¬ runout → now.runoutFired = was.runoutFired ∧
          (¬ (was.ctx.state = .matched ∧ now.dRun ≤ grade.spliceDiameter) →
            now.ctx = was.ctx ∧ now.events = was.events ∧ u.log = s.log ∧ u.port = s.port) ∧
          (was.ctx.state = .matched → now.dRun ≤ grade.spliceDiameter →
            (∀ q, was.freshCh.lastPeriod = some q → now.ctx = { was.ctx with
              state := .fireWait, missingTabAt := some (t + BitVec.ofNat 32 (3 * q)) }) ∧
            (was.freshCh.lastPeriod = none → now.ctx.state = .stopping ∧ now.ctx.cause = some .noTab))))

/-- At a valid FRESH period T of an enabled stand V_f becomes floor(D_fresh × 35,500,000 / (113 × T)), at most 16,000, with the
splice's own D_fresh from RUNUP through CUT and else the one the head reel would give now, 0 with no head (R52, R53); the period
is then handed on to the loop's matter and the context's matter, in the order that the command names (R47, R70; log entry 5).
What the two matters do is said of them by the next statement and by that of the paster delay. -/
def Obligations.FreshPeriodHandedOn : Prop :=
  ∀ (s : State) (t m : Time) (i : StandNo) (first : Bool) (g : PendingChange),
    let c := (s.stand i).freshCh
    let p := (t - m).toNat
    let dFresh : Nat :=
      if (s.stand i).ctx.state.splicing then (s.stand i).dFresh
      else match (s.stand i).queue.head? with
        | none => 0
        | some r => (s.freshChoice i r).1
    (s.stand i).record.enabled = true → c.accepted = false → c.change = some g →
    g.since + BitVec.ofNat 32 g.filter = t → c.state ≠ .stopped → c.lastMark = some m → 20000 ≤ p → p ≤ 8000000 →
    let y : State := ({ s with clock := t } : State).setStand i { s.stand i with
      freshCh := { c with
        accepted := true, change := none
        state := .turning, lastMark := some t, lastPeriod := some p, stoppedAt := some (t + 8000000), glitches := 0
        rejectRun := 0, validRun := c.validRun + 1, fault := c.fault && decide (c.validRun < 2) }
      vFresh := min 16000 (dFresh * 35500000 / (113 * p)) }
    exec (.changeAccepted t i .fresh first) s =
      .next (if first then (y.loopTab i).contextTab i p else (y.contextTab i p).loopTab i)

/-- At a tab mark a RUNNING loop forms e = V − V_f and moves C by e/2 in ACQUIRE or e/16 in TRACK, clamped to the head grade's
correction limit; an error beyond three lock bands in TRACK unlocks; else an error within the band counts toward lock, which
sets LOCKED and TRACK at the grade's lock count, and any other error returns the count to 0 (R97, R98, R99). LOCKED set takes a
context in RUNUP to MATCHED, where a dancer excursion aborts with TENSION, and EARLY or D_run at the splice diameter goes on to
FIRE_WAIT (R69, R72); LOCKED cleared takes MATCHED, FIRE_WAIT and FIRE_SET back to RUNUP with the paster and missing-tab timers
disarmed (R70); else the context is unchanged. A loop that is not RUNNING makes no correction. A head or running grade that
finds no record reads as zeros, the model's choice (log entry 10). -/
def Obligations.LoopCorrectsAndLocks : Prop :=
  (∀ (s : State) (i : StandNo), (s.stand i).loop.activity ≠ .running → s.loopTab i = s) ∧
  ∀ (s : State) (i : StandNo), (s.stand i).loop.activity = .running →
    let l := (s.stand i).loop
    let was := s.stand i
    let now := (s.loopTab i).stand i
    let sets : Prop := was.ctx.state = .runUp
    let clears : Prop := was.ctx.state = .matched ∨ was.ctx.state = .fireWait ∨ was.ctx.state = .fireSet
    let fires : Prop := was.ctx.early = true ∨ was.dRun ≤ (s.runningGrade i).spliceDiameter
    let g := s.headGrade i
    let e : Int := ((s.tracker (s.stand i).record.webSlot).v : Int) - (s.stand i).vFresh
    let moved : Int := l.correction + if l.mode = .acquire then e.tdiv 2 else e.tdiv 16
    let v := ((s.loopTab i).stand i).loop
    let n := min g.lockCount (l.lockCount + 1)
    v.correction = (if moved < -(g.correctionLimit : Int) then -(g.correctionLimit : Int)
      else if (g.correctionLimit : Int) < moved then (g.correctionLimit : Int) else moved) ∧
    v.reference = l.reference ∧ v.manual = l.manual ∧
    (l.mode = .track ∧ 3 * g.lockBand < e.natAbs →
      v.lockCount = 0 ∧ v.locked = false ∧ (v.mode = if l.manual then .track else .acquire) ∧
      (l.locked = true → clears →
        now.ctx = { was.ctx with state := .runUp, missingTabAt := none } ∧ now.out.pasterAt = none) ∧
      (l.locked = false ∨ ¬ clears → now.ctx = was.ctx ∧ now.out = was.out)) ∧
    (¬ (l.mode = .track ∧ 3 * g.lockBand < e.natAbs) →
      (g.lockBand < e.natAbs → v.lockCount = 0 ∧ v.locked = l.locked ∧ v.mode = l.mode ∧ now.ctx = was.ctx) ∧
      (e.natAbs ≤ g.lockBand → v.lockCount = n ∧
        (g.lockCount ≤ n → v.locked = true) ∧ (n < g.lockCount → v.locked = l.locked ∧ v.mode = l.mode) ∧
        (n < g.lockCount ∨ l.locked = true ∨ ¬ sets → now.ctx = was.ctx) ∧
        (g.lockCount ≤ n → l.locked = false → v.mode = .track ∧ hasEvent now.events .locked = true ∧
          (sets → was.dancer.excursionRun = 3 → now.ctx.state = .stopping ∧ now.ctx.cause = some .tension) ∧
          (sets → was.dancer.excursionRun ≠ 3 → ¬ fires → now.ctx = { was.ctx with state := .matched }) ∧
          (sets → was.dancer.excursionRun ≠ 3 → fires →
            (∀ q, was.freshCh.lastPeriod = some q → now.ctx = { was.ctx with
              state := .fireWait, missingTabAt := some (s.clock + BitVec.ofNat 32 (3 * q)) }) ∧
            (was.freshCh.lastPeriod = none → now.ctx.state = .stopping ∧ now.ctx.cause = some .noTab)))))

/-! ### The splice -/

/-- At an accepted sample a RUNNING loop ramps its reference toward V + C by at most the run-up rate over Δt, within 0 to
16,000; the order rewrites the stand's REFERENCE entry not begun, or joins the queue as its youngest; with neither an entry nor
a slot nothing changes (R95, R96). That a sample calls this update is said by the statement of the line sample. -/
def Obligations.ReferenceRampsAndCoalesces : Prop :=
  ∀ (s : State) (i : StandNo) (dt : Nat),
    let l := (s.stand i).loop
    let speed := s.rampedSpeed i dt
    let waiting (e : TxEntry) : Prop := e.begun = false ∧ ∃ v, e.body = .reference i v
    let x : State := s.setStand i { s.stand i with loop := { l with reference := speed } }
    speed ≤ 16000 ∧
    ((∃ e ∈ s.port.tx, waiting e) → ∃ tx : List TxEntry, s.updateReference i dt = { x with port := { s.port with tx := tx } } ∧
      tx.length = s.port.tx.length ∧
      ∀ n (h : n < s.port.tx.length) (h' : n < tx.length),
        (waiting s.port.tx[n] → tx[n] = { s.port.tx[n] with body := .reference i speed }) ∧
        (¬ waiting s.port.tx[n] → tx[n] = s.port.tx[n])) ∧
    ((∀ e ∈ s.port.tx, ¬ waiting e) → s.port.tx.length + s.port.handlerSlot.toNat < 12 →
      s.updateReference i dt = { x with port := { s.port with
        tx := s.port.tx ++ [⟨.urgent, (s.stand i).record.driveStation, .reference i speed, false, false⟩] } }) ∧
    ((∀ e ∈ s.port.tx, ¬ waiting e) → 12 ≤ s.port.tx.length + s.port.handlerSlot.toNat → s.updateReference i dt = s)

/-- A context in WATCH, at an accepted sample with V at least 300, computes L_rem, t_rem and t_start; t_rem within the warn
time sets the prewarn mark and raises PREWARN; t_rem within t_start, in RUN with V at least 500, TRACKING, the low-window mark
clear and no fault on FRESH, enters RUNUP (R64, R65, R66, R67). Below 300 the sample changes nothing. -/
def Obligations.PredictionDecides : Prop :=
  ∀ (s : State) (i : StandNo) (dt : Nat) (r : ReelRecord) (run : RunningReel), (s.stand i).ctx.state = .watch →
    (s.stand i).queue.head? = some r → (s.stand i).running = some run → 0 < (s.grade run.grade).caliper →
    0 < (s.grade r.grade).runUpRate → (∀ d ∈ s.port.waitingDrives, d.stand ≠ i) →
    let k := s.tracker (s.stand i).record.webSlot
    let dRun := (s.stand i).dRun
    let dSp := (s.grade run.grade).spliceDiameter
    let lRem := if dSp < dRun then 355 * (dRun * dRun - dSp * dSp) * 10 / (452 * (s.grade run.grade).caliper) else 0
    let tRem := lRem * 1000 / k.v
    let tStart := k.v * 1000 / (s.grade r.grade).runUpRate + (s.grade r.grade).settleTime + (s.stand i).record.leadMargin
    let go : Prop := tRem ≤ tStart ∧ s.mode = .run ∧ 500 ≤ k.v ∧ k.state = .tracking ∧ k.lowWindow = false ∧
      (s.stand i).freshCh.fault = false
    let u := s.contextHears i (.accepted dt)
    (k.v < 300 → u = s) ∧
    (300 ≤ k.v → ¬ go → tRem ≤ (s.stand i).record.warnTime → (s.stand i).ctx.prewarn = false →
      KeepsOthers i s u ∧ (u.stand i).ctx = { (s.stand i).ctx with prewarn := true } ∧
        (u.stand i).events = withEvent (s.stand i).events .prewarn) ∧
    (300 ≤ k.v → ¬ go → (s.stand i).record.warnTime < tRem ∨ (s.stand i).ctx.prewarn = true → u = s) ∧
    (300 ≤ k.v → go → KeepsOthers i s u ∧ (u.stand i).ctx.state = .runUp ∧ (u.stand i).ctx.prewarn = true ∧
      (u.stand i).dFresh = (s.freshChoice i r).1 ∧ (u.stand i).source = (s.freshChoice i r).2 ∧
      (u.stand i).loop = ⟨.running, .acquire, 0, 0, 0, false, false, 0⟩ ∧
      hasEvent (u.stand i).events .runUpStart = true ∧
      ((s.stand i).ctx.prewarn = false → hasEvent (u.stand i).events .prewarn = true))

/-- The paster delay of R109: with a = (φ_sn + θ_tab) mod 1000 and u = a × T / 1,000 it is (u − τ_p) mod T, at least 0 and below
T. A tab mark re-arms the missing-tab timer with 3 × T in FIRE_WAIT and FIRE_SET (R72). In FIRE_WAIT, when the loop is LOCKED, the
tracker in TRACKING with V at least 500 and the latch clear, it arms the paster timer with the delay and enters FIRE_SET (R110,
R73); when one of these fails it does no more. In FIRE_SET it re-arms the paster timer (R74). In any other state it changes
nothing. -/
def Obligations.PasterDelayAndArming : Prop :=
  ∀ (s : State) (i : StandNo) (r : ReelRecord) (p : Nat), (s.stand i).queue.head? = some r → 20000 ≤ p →
    let tab := match r.tab with
      | some v => v
      | none => (s.grade r.grade).defaultTab
    let u := ((s.stand i).record.sensorToNip + tab) % 1000 * p / 1000
    let d := s.pasterDelay i p
    let ctx : Context := { (s.stand i).ctx with missingTabAt := some (s.clock + BitVec.ofNat 32 (3 * p)) }
    let armed (h : Horn) : Output := { (s.stand i).out with pasterAt := some (s.clock + BitVec.ofNat 32 d), horn := h }
    let arms : Prop := (s.stand i).loop.locked = true ∧ (s.tracker (s.stand i).record.webSlot).state = .tracking ∧
      (s.stand i).out.latch = false ∧ 500 ≤ (s.tracker (s.stand i).record.webSlot).v
    d < p ∧ (d : Int) = ((u : Int) - (s.stand i).record.pasterLatency) % (p : Int) ∧
    ((s.stand i).ctx.state = .fireWait → arms → ∃ h : Horn, h.pattern = .continuous ∧
      s.contextTab i p = s.setStand i { s.stand i with ctx := { ctx with state := .fireSet }, out := armed h }) ∧
    ((s.stand i).ctx.state = .fireWait → ¬ arms → s.contextTab i p = s.setStand i { s.stand i with ctx := ctx }) ∧
    ((s.stand i).ctx.state = .fireSet →
      s.contextTab i p = s.setStand i { s.stand i with ctx := ctx, out := armed (s.stand i).out.horn }) ∧
    ((s.stand i).ctx.state ≠ .fireWait → (s.stand i).ctx.state ≠ .fireSet → s.contextTab i p = s)

/-- The knife delay of R112: τ_p + floor((L_tail + L_kn) × 1,000,000 / V) − τ_k, formed as a signed value; below 0 it is used as
0 with TAIL_LONG, above 1,000,000 as 1,000,000 with TAIL_SHORT, and every delay used lies within 0 to 1,000,000. -/
def Obligations.KnifeDelayClamped : Prop :=
  ∀ (s : State) (i : StandNo) (r : ReelRecord), (s.stand i).queue.head? = some r →
    0 < (s.tracker (s.stand i).record.webSlot).v →
    let k := (s.stand i).record
    let v := (s.tracker k.webSlot).v
    let raw : Int := k.pasterLatency + (((s.grade r.grade).tailLength + k.knifePath) * 1000000 / v : Nat) -
      k.knifeLatency
    let u := s.setKnife i
    let used := s.knifeDelay i
    used ≤ 1000000 ∧
    (raw < 0 → used = 0 ∧ (u.stand i).ctx.tailLong = true ∧ (u.stand i).ctx.tailShort = false) ∧
    (0 ≤ raw → raw ≤ 1000000 →
      (used : Int) = raw ∧ (u.stand i).ctx.tailLong = false ∧ (u.stand i).ctx.tailShort = false) ∧
    (1000000 < raw → used = 1000000 ∧ (u.stand i).ctx.tailLong = false ∧ (u.stand i).ctx.tailShort = true) ∧
    (u.stand i).out.knifeAt = some (s.clock + BitVec.ofNat 32 used)

/-- The paster timer's expiry in FIRE_SET enters PASTING: PASTE is asserted for the paste hold, the fire figures are taken, the
knife timer is armed with the knife delay of R112, the tail flags say whether the delay was clamped and latch their events, the
missing-tab timer is disarmed, the excursion and prewarn marks cleared, the loop frozen and FIRED latched (R76, R110 to R115). A
head grade that finds no record reads as zeros, the model's choice (log entry 10). -/
def Obligations.PasterFires : Prop :=
  ∀ (s : State) (t : Time) (i : StandNo), (s.stand i).out.pasterAt = some t → (s.stand i).ctx.state = .fireSet →
    let k := s.tracker (s.stand i).record.webSlot
    let r := (s.stand i).record
    let raw : Int := r.pasterLatency + (((s.headGrade i).tailLength + r.knifePath) * 1000000 / k.v : Nat) - r.knifeLatency
    let used : Nat := if raw < 0 then 0 else if 1000000 < raw then 1000000 else raw.toNat
    ∃ u : State, exec (.pasterTimerExpiry t i) s = .next u ∧ KeepsOthers i s u ∧ u.clock = t ∧ u.log = s.log ∧
      (u.stand i).ctx = { (s.stand i).ctx with
        state := .pasting
        vFire := k.v
        dRunFire := (s.stand i).dRun
        eFire := (k.v : Int) - (s.stand i).vFresh
        joint := k.position t + BitVec.ofNat 32 (k.v * r.pasterLatency / 100000)
        tailLong := (u.stand i).ctx.tailLong
        tailShort := (u.stand i).ctx.tailShort
        missingTabAt := none
        excursion := false
        prewarn := false } ∧
      (u.stand i).out.pasterAt = none ∧ (u.stand i).out.paste = true ∧
      (u.stand i).out.pasteEndAt = some (t + BitVec.ofNat 32 (r.pasteHold * 1000)) ∧
      (0 < k.v → (u.stand i).out.knifeAt = some (t + BitVec.ofNat 32 used) ∧
        (u.stand i).ctx.tailLong = decide (raw < 0) ∧ (u.stand i).ctx.tailShort = decide (1000000 < raw) ∧
        (raw < 0 → hasEvent (u.stand i).events .tailLong = true) ∧
        (1000000 < raw → hasEvent (u.stand i).events .tailShort = true)) ∧
      (u.stand i).out.knifeAt ≠ none ∧ (u.stand i).out.knife = (s.stand i).out.knife ∧
      (u.stand i).out.horn.pattern = .continuous ∧
      (u.stand i).loop = { (s.stand i).loop with activity := .frozen } ∧
      hasEvent (u.stand i).events .fired = true ∧ (u.stand i).queue = (s.stand i).queue ∧
      (u.stand i).running = (s.stand i).running

/-- The knife timer's expiry in PASTING enters CUT: KNIFE is asserted for the knife pulse unless the latch is set, the brake
delay is started over any earlier cycle, the confirm timer is armed, the horn is off and HANDOVER goes to the drive (R80, R102,
R114, R116, R118, R119). -/
def Obligations.KnifeFires : Prop :=
  ∀ (s : State) (t : Time) (i : StandNo), (s.stand i).out.knifeAt = some t → (s.stand i).ctx.state = .pasting →
    let r := (s.stand i).record
    let latch := (s.stand i).out.latch
    ∃ u : State, exec (.knifeTimerExpiry t i) s = .next u ∧ KeepsOthers i s u ∧ u.clock = t ∧ u.log = s.log ∧
      u.stand i = { s.stand i with
        ctx := { (s.stand i).ctx with state := .cut, confirmAt := some (t + 2000000) }
        out := { (s.stand i).out with
          knifeAt := none
          knife := if latch then (s.stand i).out.knife else true
          knifeEndAt := if latch then (s.stand i).out.knifeEndAt else some (t + BitVec.ofNat 32 (r.knifePulse * 1000))
          brakeDelayAt := some (t + BitVec.ofNat 32 (r.brakeDelay * 1000))
          brakeHoldAt := none
          horn := (u.stand i).out.horn } } ∧
      (u.stand i).out.horn.pattern = .off ∧ u.DriveOrdered i .handover

/-- The confirm timer's expiry in CUT ends the splice. Without an excursion: a SPLICED record, the head made the running reel
with D_run its D_fresh, held, and the next record the head, not ready. With one: a BREAK_SUSPECT record, no running reel, the
head removed and auto cleared. A splice notice of the record goes to the line master station (R132). PASTE and KNIFE are off, the
loop is stopped, and the context settles (R81, R22, R23, R94, R117). -/
def Obligations.ConfirmEndsSplice : Prop :=
  ∀ (s : State) (t : Time) (i : StandNo), (s.stand i).ctx.confirmAt = some t → (s.stand i).ctx.state = .cut →
    let x : State := { s with clock := t }
    let rest := (s.stand i).queue.tail.modifyHead fun a => { a with ready := false }
    let notice (o : SpliceOutcome) : Notice :=
      ⟨i, s.line.lineMaster, s.nextSeq, (s.stand i).ctx.joint, (s.stand i).ctx.vFire, (reelIds (s.stand i)).2, o⟩
    ∃ u : State, exec (.confirmTimerExpiry t i) s = .next u ∧ KeepsOthers i s u ∧ u.clock = t ∧
      u.nextSeq = s.nextSeq + 1 ∧ u.ReferencesWithdrawn i ∧
      (u.stand i).queue = rest ∧ (u.stand i).measured = false ∧ (u.stand i).record = (s.stand i).record ∧
      (u.stand i).ctx.confirmAt = none ∧ (u.stand i).ctx.early = false ∧ (u.stand i).ctx.cause = none ∧
      (u.stand i).ctx.prewarn = false ∧ (u.stand i).loop.activity = .stopped ∧
      (u.stand i).out.paste = false ∧ (u.stand i).out.knife = false ∧
      ((s.stand i).ctx.excursion = false →
        (u.stand i).running = ((s.stand i).queue.head?.map fun a => ⟨a.id, a.grade⟩) ∧
        (u.stand i).dRun = (s.stand i).dFresh ∧ hasEvent (u.stand i).events .spliced = true ∧
        (u.stand i).ctx.auto = (s.stand i).ctx.auto ∧
        (u.stand i).ctx.state = (if (s.stand i).record.enabled = false then .off
          else if s.mode = .config ∨ (s.stand i).ctx.auto = false then .idle else .noReel) ∧
        u.NoticeGiven (notice .spliced) ∧
        ∃ r ∈ u.log, r.seq = s.nextSeq ∧ { r with noticeUnacked := false } = x.firedRecord i .spliced) ∧
      ((s.stand i).ctx.excursion = true →
        (u.stand i).running = none ∧ (u.stand i).dRun = (s.stand i).dRun ∧
        hasEvent (u.stand i).events .breakSuspect = true ∧ (u.stand i).ctx.auto = false ∧
        (u.stand i).ctx.state = (if (s.stand i).record.enabled = false then .off else .idle) ∧
        u.NoticeGiven (notice .breakSuspect) ∧
        ∃ r ∈ u.log, r.seq = s.nextSeq ∧ { r with noticeUnacked := false } = x.firedRecord i .breakSuspect)

/-! ### Outputs and the guard -/

/-- The missing-tab timer's expiry in FIRE_WAIT or FIRE_SET aborts with NO_TAB (R72, R84); the stopping timer's expiry in
STOPPING settles the context with EARLY and the abort cause cleared (R85, R61). The paste-end and knife-end timers end their
pulses; the brake-delay timer asserts BRAKE for the brake hold and the brake-hold timer releases it; a half period toggles
HORN; a PREWARN phase ends into silence or into sound (R115, R116, R118, R125, R126). Each of these changes the stand's output
unit alone. -/
def Obligations.TimersExpire : Prop :=
  (∀ (s : State) (t : Time) (i : StandNo), (s.stand i).ctx.missingTabAt = some t →
    (s.stand i).ctx.state = .fireWait ∨ (s.stand i).ctx.state = .fireSet →
    ∃ u : State, exec (.missingTabExpiry t i) s = .next u ∧ AbortedBy i .noTab [] { s with clock := t } u) ∧
  (∀ (s : State) (t : Time) (i : StandNo), (s.stand i).ctx.stoppingAt = some t → (s.stand i).ctx.state = .stopping →
    ∃ h : Horn, exec (.stoppingTimerExpiry t i) s =
      .next (({ s with clock := t } : State).setStand i { s.stand i with
        ctx := { (s.stand i).ctx with
          stoppingAt := none
          state := restingFor s.mode (s.stand i)
          early := false
          cause := none
          prewarn := false }
        out := { (s.stand i).out with horn := h } })) ∧
  (∀ (s : State) (t : Time) (i : StandNo),
    let o := (s.stand i).out
    let with_ (o' : Output) : State := ({ s with clock := t } : State).setStand i { s.stand i with out := o' }
    let half (p : Fin 4) : Time := match p with
      | 0 => 1000
      | 1 => 625
      | 2 => 417
      | 3 => 250
    (o.pasteEndAt = some t → exec (.pasteEndExpiry t i) s = .next (with_ { o with paste := false, pasteEndAt := none })) ∧
    (o.knifeEndAt = some t → exec (.knifeEndExpiry t i) s = .next (with_ { o with knife := false, knifeEndAt := none })) ∧
    (o.brakeDelayAt = some t → exec (.brakeDelayExpiry t i) s = .next (with_ { o with
      brakeDelayAt := none, brake := true
      brakeHoldAt := some (t + BitVec.ofNat 32 ((s.stand i).record.brakeHold * 1000)) })) ∧
    (o.brakeHoldAt = some t → exec (.brakeHoldExpiry t i) s = .next (with_ { o with brake := false, brakeHoldAt := none })) ∧
    (o.horn.halfAt = some t → exec (.hornHalfPeriod t i) s = .next (with_ { o with
      horn := { o.horn with line := !o.horn.line, halfAt := some (t + half o.horn.pitch) } })) ∧
    (o.horn.phaseAt = some t → o.horn.sounding = true → exec (.prewarnPhase t i) s = .next (with_ { o with
      horn := { o.horn with sounding := false, halfAt := none, line := false, phaseAt := some (t + 500000) } })) ∧
    (o.horn.phaseAt = some t → o.horn.sounding = false → exec (.prewarnPhase t i) s = .next (with_ { o with
      horn := { o.horn with
        sounding := true, halfAt := some (t + half o.horn.pitch), line := true, phaseAt := some (t + 500000) } })))

/-- A guard input that opens sets a clear latch: PASTE and KNIFE are forced off with their end timers, INTERLOCK is latched, and
the context acts by its state: an abort with cause INTERLOCK before fire, FAILED_INTERLOCK in PASTING with the knife timer
disarmed, a splice notice to the line master station and RELEASE ordered, nothing else elsewhere. A set latch, and a return to
safe, change the input's level alone (R120, R122, R79, R132). -/
def Obligations.GuardSetsLatch : Prop :=
  ∀ (s : State) (t : Time) (i : StandNo),
    let x : State := { s with clock := t }
    let y : Stand := { s.stand i with out := { (s.stand i).out with
      guardOpen := true, latch := true, paste := false, knife := false, pasteEndAt := none, knifeEndAt := none } }
    exec (.guardSafe t i) s = .next (x.setStand i { s.stand i with out := { (s.stand i).out with guardOpen := false } }) ∧
    ((s.stand i).out.guardOpen = false → (s.stand i).out.latch = true → exec (.guardOpen t i) s =
      .next (x.setStand i { s.stand i with out := { (s.stand i).out with guardOpen := true } })) ∧
    ((s.stand i).out.guardOpen = false → (s.stand i).out.latch = false →
      ((s.stand i).ctx.state.beforeFire = true →
        ∃ u : State, exec (.guardOpen t i) s = .next u ∧ AbortedBy i .interlock [.interlock] (x.setStand i y) u) ∧
      ((s.stand i).ctx.state = .pasting → ∃ u : State, exec (.guardOpen t i) s = .next u ∧ KeepsOthers i s u ∧
        (u.stand i).ctx = { (s.stand i).ctx with
          state := .stopping, prewarn := false, stoppingAt := some (t + 15000000) } ∧
        (u.stand i).out = { y.out with knifeAt := none, horn := (u.stand i).out.horn } ∧
        (u.stand i).queue = ((s.stand i).queue.modifyHead fun a => { a with ready := false }) ∧
        (u.stand i).loop.activity = .stopped ∧ (u.stand i).running = (s.stand i).running ∧
        hasEvent (u.stand i).events .interlock = true ∧ u.nextSeq = s.nextSeq + 1 ∧ u.DriveOrdered i .release ∧
        u.NoticeGiven ⟨i, s.line.lineMaster, s.nextSeq, (s.stand i).ctx.joint, (s.stand i).ctx.vFire,
          (reelIds (s.stand i)).2, .failedInterlock⟩ ∧
        ∃ r ∈ u.log, r.seq = s.nextSeq ∧ { r with noticeUnacked := false } = x.firedRecord i .failedInterlock) ∧
      ((s.stand i).ctx.state.beforeFire = false → (s.stand i).ctx.state ≠ .pasting →
        ∃ u : State, exec (.guardOpen t i) s = .next u ∧ KeepsOthers i s u ∧ u.log = s.log ∧
          u.stand i = { y with events := withEvent (s.stand i).events .interlock }))

/-! ### The splice log -/

/-- A record handed over takes the next sequence number and joins the ring as its newest; a full ring of 48 loses its oldest;
the number then rises by one modulo 65,536 (R130). At SPLICED, FAILED_INTERLOCK and BREAK_SUSPECT a notice of the record, urgent
and addressed to the line master station, is placed when the transmit queue has a free slot, and else becomes the stand's
pending notice; one still held is discarded and its record marked NOTICE_UNACKED (R132 to R134). ABORTED and RUNOUT form no
notice. The list that keeps the pending notices is the model's form (log entry 18). -/
def Obligations.LogTakesRecordAndNotice : Prop :=
  ∀ (s : State) (i : StandNo) (o : SpliceOutcome),
    let u := s.writeOutcome i o
    let r := s.makeRecord i o
    let plain (a : SpliceRecord) : SpliceRecord := { a with noticeUnacked := false }
    let n : Notice := ⟨i, s.line.lineMaster, s.nextSeq, r.joint, r.v, r.fresh, o⟩
    let forms : Prop := o = .spliced ∨ o = .failedInterlock ∨ o = .breakSuspect
    let free : Prop := s.port.tx.length + s.port.handlerSlot.toNat < 12
    let held := s.port.waitingNotices.filter fun a => a.stand == i
    (s.LogLawful → r.seq = s.nextSeq ∧ u.nextSeq = s.nextSeq + 1 ∧ u.LogLawful ∧
      u.log.map plain = newest 48 (s.log.map plain ++ [r]) ∧
      (s.log.length < 48 → u.log.length = s.log.length + 1) ∧ (s.log.length = 48 → u.log.length = 48)) ∧
    (¬ forms → u.port = s.port ∧ u.log = newest 48 (s.log ++ [r])) ∧
    (forms → free → u.port = { s.port with tx := s.port.tx ++ [⟨.urgent, s.line.lineMaster, .notice n, false, false⟩] } ∧
      u.log = newest 48 (s.log ++ [r])) ∧
    (forms → ¬ free →
      u.port = { s.port with waitingNotices := s.port.waitingNotices.filter (fun a => a.stand != i) ++ [n] } ∧
      u.log = (newest 48 (s.log ++ [r])).map fun a =>
        if held.any fun b => b.seq == a.seq then { a with noticeUnacked := true } else a)

/-! ### The Quire port -/

/-- The check byte is the register of R142 after the bits, most significant first: each bit shifts it up by one place and
inverts its three lowest bits when the top bit differed from the bit. The header check is formed over the class bit, sender,
target, verb and length; a run of zeros gives 0, the byte 1 gives 7, the bytes 1 and 0 give 21. -/
def Obligations.ChecksAreFormed : Prop :=
  crc8 [] = 0 ∧
  (∀ (bits : List Bool) (b : Bool), crc8 (bits ++ [b]) =
    if (crc8 bits).getLsbD 7 = b then crc8 bits <<< 1 else (crc8 bits <<< 1) ^^^ 7) ∧
  (∀ b : Byte, byteBits b = (List.range 8).map fun k => b.getLsbD (7 - k)) ∧
  (∀ h : Header, headerCheck h = crc8 ((h.cls == .normal) ::
    (byteBits h.sender ++ byteBits h.target ++ byteBits h.verb ++ byteBits h.length))) ∧
  (∀ p : List Byte, crcBytes p = crc8 (p.flatMap byteBits)) ∧
  (∀ n : Nat, crc8 (List.replicate n false) = 0) ∧ crcBytes [1] = 7 ∧ crcBytes [1, 0] = 21

/-- A frame on the line is, in order, the start mark, the class bit and the sender, the cells of target, verb, length and header
check, the header slot, the payload cells, the payload check cell and the payload slot: 57 + 9 × L bit times. One to an
individual target whose header slot reads recessive ends at that slot, after 47 (R141). A cell is a change bit, the opposite of
the level before it, then the byte's bits (R140). The part sends both slots recessive; the levels read differ from the bits sent
in the slots alone (R147). No dominant and no recessive run within a frame is longer than 10 bit times (R140). -/
def Obligations.FrameOnTheLine : Prop :=
  (∀ prev : Bool, cells prev [] = []) ∧
  (∀ (prev : Bool) (b : Byte) (more : List Byte), cells prev (b :: more) =
    (!prev) :: ((List.range 8).map fun k => b.getLsbD (7 - k)) ++ cells (b.getLsbD 0) more) ∧
  ∀ f : Frame, f.payload.length ≤ 40 →
    let length : Byte := BitVec.ofNat 8 f.payload.length
    let header : List Bool := (f.cls == .normal) :: (byteBits f.sender ++
      cells (f.sender.getLsbD 0) [f.target, f.verb, length, headerCheck ⟨f.cls, f.sender, f.target, f.verb, length⟩])
    let rest (slot : Bool) : List Bool := cells slot (f.payload ++ [crcBytes f.payload])
    (∀ slot : Bool, slot = false ∨ 240 ≤ f.target.toNat →
      f.lineBits slot = [false] ++ header ++ [true] ++ rest slot ++ [true] ∧
      (f.lineBits slot).length = 57 + 9 * f.payload.length) ∧
    (f.target.toNat < 240 → f.lineBits true = [false] ++ header ++ [true] ∧ (f.lineBits true).length = 47) ∧
    (∀ h p : Bool, h = true ∨ 240 ≤ f.target.toNat → f.readBits h p = header ++ [!h] ++ rest (!h) ++ [!p]) ∧
    (∀ p : Bool, f.target.toNat < 240 → f.readBits false p = header ++ [true]) ∧
    ∀ (h p : Bool) (n : Nat), n ≤ 56 + 9 * f.payload.length →
      let runs := LineRuns.read ⟨0, 11⟩ (false :: (f.readBits h p).take n)
      runs.dominant ≤ 10 ∧ runs.recessive ≤ 10

/-- At the end of the header check cell the port ignores a header that fails a condition of R150; follows an on-arrival frame;
and makes its acknowledge decision on a request frame, positive when the fill is below 16 and the class urgent or the fill below
12, driving the header slot for an individual target alone (R150, R151, R153). At the payload check a reserved frame with a good
check takes its place at the tail of the receive queue (R152). The bit times read are counted (R144, R143), as the command's
bytes and the slot give them (log entry 17). -/
def Obligations.FramesAreAdmitted : Prop :=
  (∀ (s : State) (t : Time) (h : Header) (check : Byte), s.port.reading = .header →
    let one := decide (h.target.toNat < 240)
    let mine : Prop := h.target = s.port.station ∨ h.target ∈ s.port.groups ∨ h.target = 255
    let arrival : Prop := h.verb = 0x10 ∨ h.verb = 0x11
    let ok : Prop := check = headerCheck h ∧ h.length.toNat ≤ 40 ∧ 1 ≤ h.sender.toNat ∧ h.sender.toNat ≤ 239 ∧
      h.sender ≠ s.port.station ∧ mine ∧
      (arrival → h.sender = s.line.lineMaster ∧ s.line.lineMaster ≠ 0)
    let yes : Prop := s.port.rx.length < 16 ∧ (h.cls = .urgent ∨ s.port.rx.length < 12)
    let x (r : Reading) (a : Bool) : State :=
      { s with
        clock := t
        port := { s.port with
          reading := r, headerAck := a, payloadAck := false, runs := LineRuns.read ⟨1, 0⟩ (headerBits h check) } }
    (¬ ok → exec (.headerCheckEnd t h check) s = .next (x .none false)) ∧
    (ok → arrival → exec (.headerCheckEnd t h check) s = .next (x (.onArrival h) one)) ∧
    (ok → ¬ arrival → yes → exec (.headerCheckEnd t h check) s = .next (x (.request h true) one)) ∧
    (ok → ¬ arrival → ¬ yes → one = true → exec (.headerCheckEnd t h check) s = .next (x .none false)) ∧
    (ok → ¬ arrival → ¬ yes → one = false →
      exec (.headerCheckEnd t h check) s = .next (x (.request h false) false))) ∧
  (∀ (s : State) (t : Time) (h : Header) (held : Bool) (p : List Byte) (check : Byte), s.port.reading = .request h held →
    p.length = h.length.toNat →
    let slot := !s.port.headerAck
    let runs := s.port.runs.read (slot :: cells slot (p ++ [check]))
    (held = true → check = crcBytes p → exec (.requestFrame t p check) s = .next { s with
      clock := t
      port := { s.port with
        reading := .none
        payloadAck := decide (h.target.toNat < 240)
        runs := runs
        rx := s.port.rx ++ [⟨h.cls, h.sender, h.target, h.verb, p⟩] } }) ∧
    (held = false ∨ check ≠ crcBytes p → exec (.requestFrame t p check) s = .next { s with
      clock := t
      port := { s.port with reading := .none, payloadAck := false, runs := runs } }))

/-- In IDLE the arbiter begins the oldest urgent entry not begun, or with none the oldest normal one: the entry is begun in its
place, its frame is on the line with the part's station as sender, and the bus is BUSY (R145, R146, R143). The contest with the
stations that begin in the same bit time is won by the lowest class followed by sender; the line carries the winner's bits, so
the part reads its own 9 when it wins, and else the first bits of the lowest rival's, up to the bit at which it reads dominant
where it sends recessive (R145). That the rivals come with the command is the model's (log entry 17). -/
def Obligations.TransmitBeginChooses : Prop :=
  ∀ (s : State) (t : Time) (rivals : List Contestant) (pre post : List TxEntry) (e : TxEntry), s.port.bus = .idle →
    s.port.sending = none → s.port.tx = pre ++ e :: post → e.begun = false →
    (e.cls = .urgent ∧ (∀ a ∈ pre, a.begun = false → a.cls = .normal) ∨
      e.cls = .normal ∧ (∀ a ∈ pre, a.begun = true) ∧ ∀ a ∈ post, a.begun = false → a.cls = .normal) →
    let rank (c : FrameClass) (station : Byte) : Nat := (if c = .normal then 256 else 0) + station.toNat
    let bits (c : FrameClass) (station : Byte) : List Bool := (c == .normal) :: byteBits station
    let mine := rank e.cls s.port.station
    ∃ (levels : List Bool) (won : Bool), exec (.transmitBegin ⟨t, rivals⟩) s = .next { s with
        clock := t
        port := { s.port with
          bus := .busy
          runs := ⟨s.port.runs.dominant + 1, 0⟩
          reading := .none
          sending := some ⟨⟨e.cls, s.port.station, e.target, e.body.verb, e.body.payload⟩, levels, won⟩
          tx := pre ++ { e with begun := true } :: post } } ∧
      (won = true ↔ ∀ r ∈ rivals, mine ≤ rank r.cls r.sender) ∧
      (won = true → levels = bits e.cls s.port.station) ∧
      (won = false → ∃ r ∈ rivals, (∀ a ∈ rivals, rank r.cls r.sender ≤ rank a.cls a.sender) ∧
        levels <+: bits r.cls r.sender ∧
        ∃ agreed : List Bool, levels = agreed ++ [false] ∧ agreed ++ [true] <+: bits e.cls s.port.station)

/-- LOST_ARBITRATION of a contest that was won cannot come, and changes the clock alone: the model's choice (log entry 2). A
lost contest makes the begun entry not begun again, in its place, and the part reads the winner's frame from its first bit
(R145). A begun REFERENCE whose stand has a younger entry takes that entry's speed, and the younger leaves (R96; no run of the
model holds both entries, log entry 23); one whose loop has stopped leaves (R105); a begun report whose report-owed mark is set
is brought up to date and the mark cleared, and one whose mark is clear stays as it is (R138). The mark `dead` is the model's
own way to keep which entries a stopped loop has left (log entry 18). -/
def Obligations.LostArbitrationKeepsEntry : Prop :=
  (∀ (s : State) (t : Time) (f : Frame) (levels : List Bool), s.port.sending = some ⟨f, levels, true⟩ →
    exec (.lostArbitration t) s = .next { s with clock := t }) ∧
  ∀ (s : State) (t : Time) (f : Frame) (levels : List Bool) (pre post : List TxEntry) (e : TxEntry),
    s.port.sending = some ⟨f, levels, false⟩ → s.port.tx = pre ++ e :: post → e.begun = true →
    (∀ a ∈ pre, a.begun = false) → (∀ a ∈ post, a.begun = false) →
    let x (tx : List TxEntry) : State :=
      { s with
        clock := t
        port := { s.port with sending := none, reading := .header, runs := s.port.runs.read levels, tx := tx } }
    let notRef (i : StandNo) (a : TxEntry) : Prop := ∀ v, a.body ≠ .reference i v
    ((∀ i v, e.body ≠ .reference i v) → (∀ i c v, e.body ≠ .report i c v) →
      exec (.lostArbitration t) s = .next (x (pre ++ { e with begun := false } :: post))) ∧
    (∀ i v, e.body = .reference i v → e.dead = false → (∀ a ∈ pre, notRef i a) → (∀ a ∈ post, notRef i a) →
      exec (.lostArbitration t) s = .next (x (pre ++ { e with begun := false } :: post))) ∧
    (∀ i v w young post' post'', e.body = .reference i v → e.dead = false → (∀ a ∈ pre, notRef i a) →
      post = post' ++ young :: post'' → young.body = .reference i w → (∀ a ∈ post', notRef i a) →
      (∀ a ∈ post'', notRef i a) → s.NothingWaits →
      exec (.lostArbitration t) s =
        .next (x (pre ++ { e with begun := false, body := .reference i w } :: (post' ++ post'')))) ∧
    (∀ i v, e.body = .reference i v → e.dead = true → s.NothingWaits →
      exec (.lostArbitration t) s = .next (x (pre ++ post))) ∧
    (∀ i c v, e.body = .report i c v → i ∉ s.port.owedReports →
      exec (.lostArbitration t) s = .next (x (pre ++ { e with begun := false } :: post))) ∧
    (∀ i c v, e.body = .report i c v → i ∈ s.port.owedReports → (∀ a ∈ pre, ∀ c v, a.body ≠ .report i c v) →
      (∀ a ∈ post, ∀ c v, a.body ≠ .report i c v) →
      let now : TxEntry := { e with begun := false, body := .report i (s.stand i).ctx.state (s.stand i).events }
      let y : State := x (pre ++ now :: post)
      exec (.lostArbitration t) s =
        .next { y with port := { y.port with owedReports := s.port.owedReports.erase i } })

/-- A begun entry that has won its contest ends SENT, NO_ACK or BUS_ERROR by what the part reads back, leaves the queue, and its
outcome goes to its owner: a REFERENCE sets or raises the no-ack run; a failed HANDOVER or RELEASE latches DRIVE_FAULT; a failed
notice sets NOTICE_UNACKED; a report's or reply's outcome changes nothing more (R147, R148, R101, R102, R134). A bit error lies
past the contest and outside the acknowledge slots (R147). One within the contest, in a slot or past the frame's end, and any
outcome before the contest is won, cannot come, and changes the clock alone: the model's choice (log entry 2). The order of
hand-over and removal, and the mark `dead`, are the model's (log entries 18, 19). -/
def Obligations.TransmitOutcomes : Prop :=
  (∀ (f : Frame) (a b : Bool) (n : Nat), f.outcome (.bitError a n) = .busError ∧
    (240 ≤ f.target.toNat → f.outcome (.ended a b) = .sent) ∧
    (f.target.toNat < 240 → f.outcome (.ended a b) = if a = true ∧ b = true then .sent else .noAck)) ∧
  (∀ (s : State) (t : Time) (f : Frame) (levels : List Bool) (l : LineEnd), s.port.sending = some ⟨f, levels, false⟩ →
    exec (.transmitOutcome t l) s = .next { s with clock := t }) ∧
  (∀ (s : State) (t : Time) (f : Frame) (levels : List Bool) (h : Bool) (n : Nat),
    s.port.sending = some ⟨f, levels, true⟩ → n < 9 ∨ n = 45 ∨ (f.readBits h false).length ≤ n + 1 →
    exec (.transmitOutcome t (.bitError h n)) s = .next { s with clock := t }) ∧
  (∀ (s : State) (t : Time) (pre post : List TxEntry) (e : TxEntry) (f : Frame) (levels : List Bool) (l : LineEnd),
    s.port.sending = some ⟨f, levels, true⟩ →
    (∀ h n, l = .bitError h n → 9 ≤ n ∧ n ≠ 45 ∧ n + 1 < (f.readBits h false).length) →
    s.port.tx = pre ++ e :: post → e.begun = true → (∀ a ∈ pre, a.begun = false) → (∀ a ∈ post, a.begun = false) →
    s.NothingWaits →
    let good : Prop := f.outcome l = .sent
    let read : List Bool := match l with
      | .bitError h n => (f.readBits h false).take n ++ [!((f.readBits h false).getD n true)]
      | .ended h p => f.readBits h p
    let x : State := { s with
      clock := t
      port := { s.port with sending := none, runs := s.port.runs.read read, tx := pre ++ post } }
    ((∃ v r d, e.body = .reply v r d) ∨ (∃ i c v, e.body = .report i c v) →
      exec (.transmitOutcome t l) s = .next x) ∧
    (∀ n, e.body = .notice n → exec (.transmitOutcome t l) s = .next (if f.outcome l = .sent then x else
      { x with log := s.log.map fun r => if r.seq = n.seq then { r with noticeUnacked := true } else r })) ∧
    (∀ i, (e.body = .release i ∨ ∃ v, e.body = .handover i v) →
      (good → exec (.transmitOutcome t l) s = .next x) ∧
      (¬ good → ∃ u : State, exec (.transmitOutcome t l) s = .next u ∧ KeepsOthers i x u ∧
        u.stand i = { s.stand i with events := withEvent (s.stand i).events .driveFault })) ∧
    (∀ i v, e.body = .reference i v → (e.dead = true ∨ (s.stand i).loop.activity = .stopped) →
      exec (.transmitOutcome t l) s = .next x) ∧
    (∀ i v, e.body = .reference i v → e.dead = false → (s.stand i).loop.activity ≠ .stopped →
      let run := (s.stand i).loop.noAckRun
      (good → exec (.transmitOutcome t l) s =
        .next (x.setStand i { s.stand i with loop := { (s.stand i).loop with noAckRun := 0 } })) ∧
      (¬ good → run ≠ 2 → exec (.transmitOutcome t l) s =
        .next (x.setStand i { s.stand i with loop := { (s.stand i).loop with noAckRun := min 3 (run + 1) } })) ∧
      (¬ good → run = 2 → ∃ u : State, exec (.transmitOutcome t l) s = .next u ∧ KeepsOthers i x u ∧
        (u.stand i).loop.noAckRun = 3 ∧ hasEvent (u.stand i).events .driveFault = true ∧
        ((s.stand i).ctx.state.beforeFire = true →
          (u.stand i).ctx.state = .stopping ∧ (u.stand i).ctx.cause = some .driveFault) ∧
        ((s.stand i).ctx.state.beforeFire = false → (u.stand i).ctx = (s.stand i).ctx))))

/-- The port counts the consecutive dominant and the consecutive recessive bit times; each bit of the other level returns a
count to 0 (R144, R143). The end of 11 recessive bit times takes BUSY or STUCK to IDLE; a start mark takes IDLE to BUSY and is
read; the 251st dominant bit time in a row takes IDLE or BUSY to STUCK, abandons the frame being read with its reservation, and
aborts every splice in RUNUP through FIRE_SET with DRIVE_FAULT, no other context changing (R143, R144). A frame abandoned at a
framing error, a change bit equal to the bit before it, loses its reservation and is not acknowledged (R150). At any other
count, and where the bus state rules the event out, these change the clock alone: the model's choice (log entry 2). That the
bits come with the commands, and that they do not come while the part itself sends, are the model's (log entries 2, 17), as is
that a threshold passed over among the bits of one command has no effect (log entry 25). -/
def Obligations.BusStateChanges : Prop :=
  (∀ (r : LineRuns) (l : List Bool), r.read [] = r ∧ r.read (l ++ [false]) = ⟨(r.read l).dominant + 1, 0⟩ ∧
    r.read (l ++ [true]) = ⟨0, (r.read l).recessive + 1⟩) ∧
  ∀ (s : State) (t : Time) (line : List Bool) (o : List StandNo), s.port.sending = none →
    let runs := s.port.runs.read line
    let quiet : State := { s with clock := t }
    (s.port.bus ≠ .idle → exec (.busIdle ⟨t, line⟩) s = .next (if runs.recessive = 11 then
      { s with clock := t, port := { s.port with bus := .idle, runs := runs, reading := .none } } else quiet)) ∧
    (s.port.bus = .idle → exec (.busIdle ⟨t, line⟩) s = .next quiet) ∧
    (s.port.bus = .idle → exec (.startMarkRead t) s = .next { s with
      clock := t, port := { s.port with bus := .busy, runs := ⟨s.port.runs.dominant + 1, 0⟩, reading := .header } }) ∧
    (s.port.bus ≠ .idle → exec (.startMarkRead t) s = .next quiet) ∧
    (s.port.reading ≠ .none → exec (.receptionAbandoned ⟨t, line⟩) s = .next (if 2 ≤ runs.dominant ∨ 2 ≤ runs.recessive then
      { s with clock := t, port := { s.port with reading := .none, payloadAck := false, runs := runs } } else quiet)) ∧
    (s.port.bus = .stuck ∨ runs.dominant ≠ 251 → exec (.stuck ⟨t, line⟩ o) s = .next quiet) ∧
    (s.port.bus ≠ .stuck → runs.dominant = 251 →
      ∃ u : State, exec (.stuck ⟨t, line⟩ o) s = .next u ∧ u.clock = t ∧ u.mode = s.mode ∧ u.trackers = s.trackers ∧
      u.port.bus = .stuck ∧ u.port.runs = runs ∧ u.port.reading = .none ∧ u.reserved = false ∧
      u.port.payloadAck = false ∧ u.port.rx = s.port.rx ∧
      ∀ i, ((s.stand i).ctx.state.beforeFire = false → u.stand i = s.stand i) ∧
        ((s.stand i).ctx.state.beforeFire = true → (u.stand i).ctx.state = .stopping ∧
          (u.stand i).ctx.cause = some .driveFault ∧ (u.stand i).out.pasterAt = none ∧
          (u.stand i).loop.activity = .stopped ∧
          (u.stand i).ctx.stoppingAt = some (t + 15000000)))

/-- A freed slot is offered to the waiting parties: the pending drive order that began to wait first, else the pending notice
that did, else the request handler when the request at the head of the receive queue waits for a reply's slot, else the owed
report whose mark was set first; while the report station is 0 the owed reports decline and their marks are cleared (R149, R138,
R104, R133, R157). Shown of the slot freed at the outcome of a reply or a report. A stand whose own report still stands in the
queue keeps its mark and is passed over, the model's choice (log entry 12), as is that the handler takes the slot also when
another was free and nobody waited (log entry 24); the lists in which the parties wait are its form (log entry 18). -/
def Obligations.SlotArbiterServes : Prop :=
  ∀ (s : State) (t : Time) (pre post : List TxEntry) (e : TxEntry) (f : Frame) (levels : List Bool) (h p : Bool),
    s.port.sending = some ⟨f, levels, true⟩ → s.port.tx = pre ++ e :: post → e.begun = true →
    (∀ a ∈ pre, a.begun = false) → (∀ a ∈ post, a.begun = false) →
    ((∃ v r d, e.body = .reply v r d) ∨ ∃ i c v, e.body = .report i c v) →
    pre.length + post.length + s.port.handlerSlot.toNat < 12 →
    let x : State := { s with
      clock := t
      port := { s.port with sending := none, runs := s.port.runs.read (f.readBits h p), tx := pre ++ post } }
    let answer := exec (.transmitOutcome t (.ended h p)) s
    let waits (g : Frame) : Prop := s.port.rx.head? = some g ∧ g.target.toNat < 240 ∧
      g.verb ∉ ([0x20, 0x30, 0x31, 0x70] : List Byte) ∧ s.port.handlerSlot = false
    let standing (i : StandNo) : Prop := ∃ a ∈ pre ++ post, ∃ c v, a.body = .report i c v
    (∀ i k rest, s.port.waitingDrives = ⟨i, k⟩ :: rest →
      let body : TxBody := match k with
        | .handover => .handover i (s.stand i).loop.reference
        | .release => .release i
      answer = .next { x with port := { x.port with
        waitingDrives := rest
        tx := pre ++ post ++ [⟨.urgent, (s.stand i).record.driveStation, body, false, false⟩] } }) ∧
    (∀ n rest, s.port.waitingDrives = [] → s.port.waitingNotices = n :: rest →
      answer = .next { x with port := { x.port with
        waitingNotices := rest, tx := pre ++ post ++ [⟨.urgent, n.target, .notice n, false, false⟩] } }) ∧
    (s.port.waitingDrives = [] → s.port.waitingNotices = [] →
      (∀ g, waits g → answer = .next { x with port := { x.port with handlerSlot := true } }) ∧
      ((∀ g, ¬ waits g) →
        (s.line.reportStation = 0 → answer = .next { x with port := { x.port with owedReports := [] } }) ∧
        (∀ before i after, s.line.reportStation ≠ 0 → s.port.owedReports = before ++ i :: after → i ∉ before →
          (∀ j ∈ before, standing j) → ¬ standing i →
          answer = .next { x with port := { x.port with
            owedReports := before ++ after
            tx := pre ++ post ++ [⟨.normal, s.line.reportStation, .report i (s.stand i).ctx.state (s.stand i).events,
              false, false⟩] } }) ∧
        (s.line.reportStation ≠ 0 → (∀ j ∈ s.port.owedReports, standing j) → answer = .next x)))

/-- An event raised while its mark is set changes nothing. A mark that newly latches brings the stand's report up to date: with
a report station, a report not begun takes the present state and set in its place; a begun one, or a full queue, sets the
report-owed mark, which keeps its place when it is set already; with no report and a free slot a new one joins the queue as its
youngest. With report station 0 the mark latches and nothing is sent (R135, R137). Shown of any event as it is raised, and of
the NOISE of a glitch in STOPPED. The list of the marks is the model's form (log entry 18). -/
def Obligations.ReportsBroughtUp : Prop :=
  (∀ (s : State) (t : Time) (i : StandNo) (ch : Channel) (high : Bool),
    let c := (s.stand i).channel ch
    let x : State := { s with clock := t }
    (s.stand i).record.enabled = true → c.state = .stopped → high ≠ c.input → c.change ≠ none →
    exec (.pulseInputChange t i ch high) s =
      .next ((x.setStand i ((s.stand i).setChannel ch { c with input := high, change := none })).raise i .noise)) ∧
  ∀ (s : State) (i : StandNo) (k : EventKind),
    let e := withEvent (s.stand i).events k
    let x : State := s.setStand i { s.stand i with events := e }
    let body : TxBody := .report i (s.stand i).ctx.state e
    let isReport (a : TxEntry) : Prop := ∃ c v, a.body = .report i c v
    let owing : State := if i ∈ s.port.owedReports then x
      else { x with port := { s.port with owedReports := s.port.owedReports ++ [i] } }
    (hasEvent (s.stand i).events k = true → s.raise i k = s) ∧
    (hasEvent (s.stand i).events k = false →
      (s.line.reportStation = 0 → s.raise i k = x) ∧
      (s.line.reportStation ≠ 0 →
        (∀ pre post a, s.port.tx = pre ++ a :: post → isReport a → (∀ b ∈ pre, ¬ isReport b) →
          (∀ b ∈ post, ¬ isReport b) →
          (a.begun = false → s.raise i k = { x with port := { s.port with tx := pre ++ { a with body := body } :: post } }) ∧
          (a.begun = true → s.raise i k = owing)) ∧
        ((∀ a ∈ s.port.tx, ¬ isReport a) →
          (s.port.tx.length + s.port.handlerSlot.toNat < 12 → s.raise i k = { x with port := { s.port with
            tx := s.port.tx ++ [⟨.normal, s.line.reportStation, body, false, false⟩] } }) ∧
          (12 ≤ s.port.tx.length + s.port.handlerSlot.toNat → s.raise i k = owing))))

/-! ### What a command leaves alone -/

/-- A command of one stand changes no other stand, no tracker, no table, no mode and, of the port, only the transmit queue and
the parties that wait for it (R174). -/
def Obligations.StandsKeepApart : Prop :=
  ∀ (c : Instr) (i : StandNo) (s u : State), ownStand c = some i → exec c s = .next u → KeepsOthers i s u

/-! ### Laws that every step keeps -/

/-- Every step keeps the capacities of the transmit queue, the receive queue and the reel queues (R146, R151, R13). -/
def Obligations.CapacityKept : Prop :=
  ∀ s u : State, s.WithinCapacity → step s = .next u → u.WithinCapacity

/-- Every step keeps the tables in their ranges: the grades, the enabled stand records, the line settings, the group list and
the station number (R3, R6, R9, R11, R154); and the holders of the control locks individual stations, as the senders that the
port admits are (R166, R150). -/
def Obligations.TablesKeptInRange : Prop :=
  ∀ s u : State, step s = .next u →
    (s.GradesInRange → u.GradesInRange) ∧ (s.RecordsInRange → u.RecordsInRange) ∧ (s.LineInRange → u.LineInRange) ∧
      (s.AddressesInRange → u.AddressesInRange) ∧ (s.HoldersIndividual → u.HoldersIndividual)

/-- Every step keeps each tracker's V within 0 to 16,000, its reject run within 0 to 2, and V 0 in LOST (R25, R37). -/
def Obligations.TrackersKeptInRange : Prop :=
  ∀ s u : State, s.TrackersInRange → step s = .next u → u.TrackersInRange

/-- Every step keeps the contexts lawful: a resting context is in the state of R61; in CONFIG every context is OFF or IDLE; from
RUNUP through CUT the head is present and ready; outside the resting states the stand is enabled; in OFF the auto mark is clear
(R61, R90, R13, R7, R62). It keeps the ready mark on the head of a reel queue alone (R13). -/
def Obligations.ContextsKeptLawful : Prop :=
  ∀ s u : State, step s = .next u →
    (s.ContextsLawful → u.ContextsLawful) ∧ (s.ReadyOnHeadAlone → u.ReadyOnHeadAlone)

/-- With the contexts lawful, every step keeps PASTE and KNIFE asserted only in PASTING or CUT and never with the interlock
latch set, and the latch clear in FIRE_SET (R117, R121, R110). -/
def Obligations.OutputsKeptSafe : Prop :=
  ∀ s u : State, s.OutputsSafe → s.ContextsLawful → step s = .next u → u.OutputsSafe

/-- Every step keeps the splice log lawful: at most 48 records with consecutive numbers up to the next sequence number
(R130). -/
def Obligations.LogKeptLawful : Prop :=
  ∀ s u : State, s.LogLawful → step s = .next u → u.LogLawful

end
end

