-- ==== Sys2Proof/Laws/Line.lean ====
section
/-! SUPPORT. The bits of the line: the counts of bit times, and who wins a contest. -/

namespace Sys2Proof

namespace Machine

/-! ### The counts of bit times -/

@[simp] theorem LineRuns.read_nil (r : LineRuns) : r.read [] = r := rfl

@[simp] theorem LineRuns.read_cons (r : LineRuns) (b : Bool) (l : List Bool) : r.read (b :: l) = (r.bit b).read l := rfl

theorem LineRuns.read_append (r : LineRuns) (k l : List Bool) : r.read (k ++ l) = (r.read k).read l := by
  simp [LineRuns.read, List.foldl_append]

@[simp] theorem LineRuns.bit_recessive (r : LineRuns) : r.bit true = ⟨0, r.recessive + 1⟩ := rfl

@[simp] theorem LineRuns.bit_dominant (r : LineRuns) : r.bit false = ⟨r.dominant + 1, 0⟩ := rfl

/-! ### The contest -/

/-- The number whose bits these are, most significant first. -/
def bitsValue : List Bool → Nat
  | [] => 0
  | b :: l => b.toNat * 2 ^ l.length + bitsValue l

theorem bitsValue_lt (l : List Bool) : bitsValue l < 2 ^ l.length := by
  induction l with
  | nil => simp [bitsValue]
  | cons b l ih =>
    have : b.toNat ≤ 1 := by cases b <;> simp
    have : b.toNat * 2 ^ l.length ≤ 1 * 2 ^ l.length := Nat.mul_le_mul_right _ this
    simp only [bitsValue, List.length_cons, Nat.pow_succ]
    omega

/-- A list of contestants that is not empty has one of the lowest value. -/
theorem exists_lowest (l : List (List Bool)) (h : l ≠ []) : ∃ r ∈ l, ∀ r' ∈ l, bitsValue r ≤ bitsValue r' := by
  induction l with
  | nil => exact absurd rfl h
  | cons a l ih =>
    by_cases hl : l = []
    · subst hl
      exact ⟨a, by simp, by simp⟩
    · obtain ⟨r, hr, hmin⟩ := ih hl
      by_cases ha : bitsValue a ≤ bitsValue r
      · refine ⟨a, by simp, fun r' h' => ?_⟩
        rcases List.mem_cons.mp h' with rfl | h'
        · exact Nat.le_refl _
        · exact Nat.le_trans ha (hmin r' h')
      · refine ⟨r, by simp [hr], fun r' h' => ?_⟩
        rcases List.mem_cons.mp h' with rfl | h'
        · omega
        · exact hmin r' h'

/-- The contest is won by the lowest value: the part goes on exactly when no rival's is lower, the levels read are its own
bits then, and else they are the first bits of a rival of the lowest value (R145). -/
theorem contest_spec (own : List Bool) : ∀ rivals : List (List Bool), (∀ r ∈ rivals, r.length = own.length) →
    ((contest own rivals).2 = true ↔ ∀ r ∈ rivals, bitsValue own ≤ bitsValue r) ∧
    ((contest own rivals).2 = true → (contest own rivals).1 = own) ∧
    ((contest own rivals).2 = false → ∃ r ∈ rivals, (∀ r' ∈ rivals, bitsValue r ≤ bitsValue r') ∧
      (contest own rivals).1 <+: r) := by
  induction own with
  | nil =>
    intro rivals h
    simp [contest, bitsValue]
  | cons b own ih =>
    intro rivals hlen
    -- Every rival has a first bit and as many after it as the part.
    have hcons : ∀ r ∈ rivals, r = r.headD true :: r.tail ∧ r.tail.length = own.length := by
      intro r hr
      have := hlen r hr
      cases r with
      | nil => simp at this
      | cons a t => exact ⟨rfl, by simpa using this⟩
    have hval : ∀ r ∈ rivals, bitsValue r = (r.headD true).toNat * 2 ^ own.length + bitsValue r.tail := by
      intro r hr
      obtain ⟨h1, h2⟩ := hcons r hr
      conv => lhs; rw [h1]
      rw [bitsValue, h2]
    have hlt : ∀ r ∈ rivals, bitsValue r.tail < 2 ^ own.length := by
      intro r hr
      rw [← (hcons r hr).2]
      exact bitsValue_lt _
    have hown := bitsValue_lt own
    let level := b && rivals.all fun r => r.headD true
    by_cases hb : b = level
    · -- The part reads the level it sends; the rivals that read theirs go on.
      let still := (rivals.filter fun r => r.headD true == level).map List.tail
      have hc : contest (b :: own) rivals = (level :: (contest own still).1, (contest own still).2) := by
        rw [contest]
        exact if_pos hb
      have hstill : ∀ t, t ∈ still ↔ ∃ r ∈ rivals, r.headD true = level ∧ r.tail = t := by
        intro t
        simp [still, and_assoc]
      have hslen : ∀ t ∈ still, t.length = own.length := by
        intro t ht
        obtain ⟨r, hr, _, rfl⟩ := (hstill t).mp ht
        exact (hcons r hr).2
      obtain ⟨h1, h2, h3⟩ := ih still hslen
      -- A rival that has lost sends recessive where the line is dominant.
      have hout : ∀ r ∈ rivals, r.headD true ≠ level → r.headD true = true ∧ level = false := by
        intro r hr hne
        cases hh : r.headD true with
        | true => cases hl : level with
          | true => exact absurd (hh.trans hl.symm) hne
          | false => exact ⟨rfl, rfl⟩
        | false =>
          have : level = false := by
            have : rivals.all (fun r => r.headD true) = false := by
              rw [List.all_eq_false]
              exact ⟨r, hr, by rw [hh]; decide⟩
            show (b && rivals.all fun r => r.headD true) = false
            rw [this, Bool.and_false]
          exact absurd (hh.trans this.symm) hne
      rw [hc]
      refine ⟨?_, fun h => by rw [h2 h, ← hb], fun h => ?_⟩
      · rw [h1]
        constructor
        · intro h r hr
          rw [hval r hr, bitsValue]
          by_cases hl : r.headD true = level
          · have := h r.tail ((hstill _).mpr ⟨r, hr, hl, rfl⟩)
            rw [hl, hb]
            omega
          · obtain ⟨e1, e2⟩ := hout r hr hl
            rw [e1, hb, e2]
            simp
            omega
        · intro h t ht
          obtain ⟨r, hr, hl, rfl⟩ := (hstill t).mp ht
          have := h r hr
          rw [hval r hr, bitsValue, hl, hb] at this
          omega
      · obtain ⟨t, ht, hmin, hpre⟩ := h3 h
        obtain ⟨r, hr, hl, rfl⟩ := (hstill t).mp ht
        refine ⟨r, hr, fun r' hr' => ?_, ?_⟩
        · rw [hval r hr, hval r' hr']
          by_cases hl' : r'.headD true = level
          · have := hmin _ ((hstill _).mpr ⟨r', hr', hl', rfl⟩)
            rw [hl, hl']
            omega
          · obtain ⟨e1, e2⟩ := hout r' hr' hl'
            have := hlt r hr
            rw [hl, e1, e2]
            simp
            omega
        · rw [(hcons r hr).1, hl]
          exact List.cons_prefix_cons.mpr ⟨rfl, hpre⟩
    · -- The part sends recessive and reads dominant.
      have hc : contest (b :: own) rivals = ([level], false) := by
        rw [contest]
        exact if_neg hb
      have hbt : b = true ∧ level = false := by
        cases hb' : b with
        | false => exact absurd (by simp [level, hb']) hb
        | true => cases hl : level with
          | true => exact absurd (hb'.trans hl.symm) hb
          | false => exact ⟨rfl, rfl⟩
      have hex : ∃ r ∈ rivals, r.headD true = false := by
        have : rivals.all (fun r => r.headD true) = false := by
          have := hbt.2
          simpa [level, hbt.1] using this
        simpa [List.all_eq_false] using this
      obtain ⟨r0, hr0, hh0⟩ := hex
      obtain ⟨r, hr, hmin⟩ := exists_lowest rivals (List.ne_nil_of_mem hr0)
      have h0 : bitsValue r0 < 2 ^ own.length := by
        rw [hval r0 hr0, hh0]
        have := hlt r0 hr0
        simpa using this
      rw [hc]
      refine ⟨⟨fun h => (by cases h), fun h => ?_⟩, fun h => (by cases h), fun _ => ⟨r, hr, hmin, ?_⟩⟩
      · have := h r0 hr0
        rw [bitsValue, hbt.1] at this
        simp at this
        omega
      · have hrh : r.headD true = false := by
          cases hh : r.headD true with
          | false => rfl
          | true =>
            have := hmin r0 hr0
            rw [hval r hr, hh] at this
            simp at this
            omega
        rw [(hcons r hr).1, hrh, hbt.2]
        exact List.cons_prefix_cons.mpr ⟨rfl, List.nil_prefix⟩

/-- A contest that is lost ends at the first bit that the part sends recessive and reads dominant (R145). -/
theorem contest_lost (own : List Bool) : ∀ rivals, (contest own rivals).2 = false →
    ∃ agreed : List Bool, (contest own rivals).1 = agreed ++ [false] ∧ agreed ++ [true] <+: own := by
  induction own with
  | nil => intro r h; simp [contest] at h
  | cons b own ih =>
    intro rivals h
    rw [contest] at h ⊢
    dsimp only at h ⊢
    split at h
    · rename_i hb
      rw [if_pos hb]
      obtain ⟨a, h1, h2⟩ := ih _ h
      refine ⟨(b && rivals.all fun r => r.headD true) :: a, by rw [h1]; rfl, ?_⟩
      rw [← hb]
      exact List.cons_prefix_cons.mpr ⟨rfl, h2⟩
    · rename_i hb
      rw [if_neg hb]
      refine ⟨[], ?_, ?_⟩
      · cases b <;> simp_all
      · cases b
        · simp at hb
        · exact List.cons_prefix_cons.mpr ⟨rfl, List.nil_prefix⟩

/-- The rank of a contestant: urgent before normal, then the lower station number (R145). -/
def rank (c : FrameClass) (sender : Byte) : Nat := (if c = .normal then 256 else 0) + sender.toNat

theorem bitsValue_byteBits (b : Byte) : bitsValue (byteBits b) = b.toNat := by
  revert b
  decide +kernel

@[simp] theorem length_contestBits (c : FrameClass) (b : Byte) : (contestBits c b).length = 9 := rfl

theorem bitsValue_contestBits (c : FrameClass) (b : Byte) : bitsValue (contestBits c b) = rank c b := by
  have : bitsValue (contestBits c b) = (classBit c).toNat * 2 ^ 8 + bitsValue (byteBits b) := rfl
  rw [this, bitsValue_byteBits]
  cases c <;> rfl

end Machine

end Sys2Proof
end

