-- ==== Sys2Proof/Laws/State.lean ====
section
/-! SUPPORT. What each named update of the state does to each field, stand and tracker. -/

namespace Sys2Proof

namespace Machine

namespace State

/-! ### setClock -/

@[simp] theorem clock_setClock (s : State) (t : Time) : (s.setClock t).clock = t := rfl

@[simp] theorem mode_setClock (s : State) (t : Time) : (s.setClock t).mode = s.mode := rfl

@[simp] theorem grades_setClock (s : State) (t : Time) : (s.setClock t).grades = s.grades := rfl

@[simp] theorem line_setClock (s : State) (t : Time) : (s.setClock t).line = s.line := rfl

@[simp] theorem stands_setClock (s : State) (t : Time) : (s.setClock t).stands = s.stands := rfl

@[simp] theorem trackers_setClock (s : State) (t : Time) : (s.setClock t).trackers = s.trackers := rfl

@[simp] theorem scanNext_setClock (s : State) (t : Time) : (s.setClock t).scanNext = s.scanNext := rfl

@[simp] theorem log_setClock (s : State) (t : Time) : (s.setClock t).log = s.log := rfl

@[simp] theorem nextSeq_setClock (s : State) (t : Time) : (s.setClock t).nextSeq = s.nextSeq := rfl

@[simp] theorem port_setClock (s : State) (t : Time) : (s.setClock t).port = s.port := rfl

@[simp] theorem pending_setClock (s : State) (t : Time) : (s.setClock t).pending = s.pending := rfl

/-! ### setStand -/

@[simp] theorem clock_setStand (s : State) (i : StandNo) (x : Stand) : (s.setStand i x).clock = s.clock := rfl

@[simp] theorem mode_setStand (s : State) (i : StandNo) (x : Stand) : (s.setStand i x).mode = s.mode := rfl

@[simp] theorem grades_setStand (s : State) (i : StandNo) (x : Stand) : (s.setStand i x).grades = s.grades := rfl

@[simp] theorem line_setStand (s : State) (i : StandNo) (x : Stand) : (s.setStand i x).line = s.line := rfl

@[simp] theorem trackers_setStand (s : State) (i : StandNo) (x : Stand) : (s.setStand i x).trackers = s.trackers := rfl

@[simp] theorem scanNext_setStand (s : State) (i : StandNo) (x : Stand) : (s.setStand i x).scanNext = s.scanNext := rfl

@[simp] theorem log_setStand (s : State) (i : StandNo) (x : Stand) : (s.setStand i x).log = s.log := rfl

@[simp] theorem nextSeq_setStand (s : State) (i : StandNo) (x : Stand) : (s.setStand i x).nextSeq = s.nextSeq := rfl

@[simp] theorem port_setStand (s : State) (i : StandNo) (x : Stand) : (s.setStand i x).port = s.port := rfl

@[simp] theorem pending_setStand (s : State) (i : StandNo) (x : Stand) : (s.setStand i x).pending = s.pending := rfl

/-! ### modStand -/

@[simp] theorem clock_modStand (s : State) (i : StandNo) (f : Stand → Stand) : (s.modStand i f).clock = s.clock := rfl

@[simp] theorem mode_modStand (s : State) (i : StandNo) (f : Stand → Stand) : (s.modStand i f).mode = s.mode := rfl

@[simp] theorem grades_modStand (s : State) (i : StandNo) (f : Stand → Stand) : (s.modStand i f).grades = s.grades := rfl

@[simp] theorem line_modStand (s : State) (i : StandNo) (f : Stand → Stand) : (s.modStand i f).line = s.line := rfl

@[simp] theorem trackers_modStand (s : State) (i : StandNo) (f : Stand → Stand) : (s.modStand i f).trackers = s.trackers := rfl

@[simp] theorem scanNext_modStand (s : State) (i : StandNo) (f : Stand → Stand) : (s.modStand i f).scanNext = s.scanNext := rfl

@[simp] theorem log_modStand (s : State) (i : StandNo) (f : Stand → Stand) : (s.modStand i f).log = s.log := rfl

@[simp] theorem nextSeq_modStand (s : State) (i : StandNo) (f : Stand → Stand) : (s.modStand i f).nextSeq = s.nextSeq := rfl

@[simp] theorem port_modStand (s : State) (i : StandNo) (f : Stand → Stand) : (s.modStand i f).port = s.port := rfl

@[simp] theorem pending_modStand (s : State) (i : StandNo) (f : Stand → Stand) : (s.modStand i f).pending = s.pending := rfl

/-! ### modCtx -/

@[simp] theorem clock_modCtx (s : State) (i : StandNo) (f : Context → Context) : (s.modCtx i f).clock = s.clock := rfl

@[simp] theorem mode_modCtx (s : State) (i : StandNo) (f : Context → Context) : (s.modCtx i f).mode = s.mode := rfl

@[simp] theorem grades_modCtx (s : State) (i : StandNo) (f : Context → Context) : (s.modCtx i f).grades = s.grades := rfl

@[simp] theorem line_modCtx (s : State) (i : StandNo) (f : Context → Context) : (s.modCtx i f).line = s.line := rfl

@[simp] theorem trackers_modCtx (s : State) (i : StandNo) (f : Context → Context) : (s.modCtx i f).trackers = s.trackers := rfl

@[simp] theorem scanNext_modCtx (s : State) (i : StandNo) (f : Context → Context) : (s.modCtx i f).scanNext = s.scanNext := rfl

@[simp] theorem log_modCtx (s : State) (i : StandNo) (f : Context → Context) : (s.modCtx i f).log = s.log := rfl

@[simp] theorem nextSeq_modCtx (s : State) (i : StandNo) (f : Context → Context) : (s.modCtx i f).nextSeq = s.nextSeq := rfl

@[simp] theorem port_modCtx (s : State) (i : StandNo) (f : Context → Context) : (s.modCtx i f).port = s.port := rfl

@[simp] theorem pending_modCtx (s : State) (i : StandNo) (f : Context → Context) : (s.modCtx i f).pending = s.pending := rfl

/-! ### modLoop -/

@[simp] theorem clock_modLoop (s : State) (i : StandNo) (f : Loop → Loop) : (s.modLoop i f).clock = s.clock := rfl

@[simp] theorem mode_modLoop (s : State) (i : StandNo) (f : Loop → Loop) : (s.modLoop i f).mode = s.mode := rfl

@[simp] theorem grades_modLoop (s : State) (i : StandNo) (f : Loop → Loop) : (s.modLoop i f).grades = s.grades := rfl

@[simp] theorem line_modLoop (s : State) (i : StandNo) (f : Loop → Loop) : (s.modLoop i f).line = s.line := rfl

@[simp] theorem trackers_modLoop (s : State) (i : StandNo) (f : Loop → Loop) : (s.modLoop i f).trackers = s.trackers := rfl

@[simp] theorem scanNext_modLoop (s : State) (i : StandNo) (f : Loop → Loop) : (s.modLoop i f).scanNext = s.scanNext := rfl

@[simp] theorem log_modLoop (s : State) (i : StandNo) (f : Loop → Loop) : (s.modLoop i f).log = s.log := rfl

@[simp] theorem nextSeq_modLoop (s : State) (i : StandNo) (f : Loop → Loop) : (s.modLoop i f).nextSeq = s.nextSeq := rfl

@[simp] theorem port_modLoop (s : State) (i : StandNo) (f : Loop → Loop) : (s.modLoop i f).port = s.port := rfl

@[simp] theorem pending_modLoop (s : State) (i : StandNo) (f : Loop → Loop) : (s.modLoop i f).pending = s.pending := rfl

/-! ### modOut -/

@[simp] theorem clock_modOut (s : State) (i : StandNo) (f : Output → Output) : (s.modOut i f).clock = s.clock := rfl

@[simp] theorem mode_modOut (s : State) (i : StandNo) (f : Output → Output) : (s.modOut i f).mode = s.mode := rfl

@[simp] theorem grades_modOut (s : State) (i : StandNo) (f : Output → Output) : (s.modOut i f).grades = s.grades := rfl

@[simp] theorem line_modOut (s : State) (i : StandNo) (f : Output → Output) : (s.modOut i f).line = s.line := rfl

@[simp] theorem trackers_modOut (s : State) (i : StandNo) (f : Output → Output) : (s.modOut i f).trackers = s.trackers := rfl

@[simp] theorem scanNext_modOut (s : State) (i : StandNo) (f : Output → Output) : (s.modOut i f).scanNext = s.scanNext := rfl

@[simp] theorem log_modOut (s : State) (i : StandNo) (f : Output → Output) : (s.modOut i f).log = s.log := rfl

@[simp] theorem nextSeq_modOut (s : State) (i : StandNo) (f : Output → Output) : (s.modOut i f).nextSeq = s.nextSeq := rfl

@[simp] theorem port_modOut (s : State) (i : StandNo) (f : Output → Output) : (s.modOut i f).port = s.port := rfl

@[simp] theorem pending_modOut (s : State) (i : StandNo) (f : Output → Output) : (s.modOut i f).pending = s.pending := rfl

/-! ### modPort -/

@[simp] theorem clock_modPort (s : State) (f : Port → Port) : (s.modPort f).clock = s.clock := rfl

@[simp] theorem mode_modPort (s : State) (f : Port → Port) : (s.modPort f).mode = s.mode := rfl

@[simp] theorem grades_modPort (s : State) (f : Port → Port) : (s.modPort f).grades = s.grades := rfl

@[simp] theorem line_modPort (s : State) (f : Port → Port) : (s.modPort f).line = s.line := rfl

@[simp] theorem stands_modPort (s : State) (f : Port → Port) : (s.modPort f).stands = s.stands := rfl

@[simp] theorem trackers_modPort (s : State) (f : Port → Port) : (s.modPort f).trackers = s.trackers := rfl

@[simp] theorem scanNext_modPort (s : State) (f : Port → Port) : (s.modPort f).scanNext = s.scanNext := rfl

@[simp] theorem log_modPort (s : State) (f : Port → Port) : (s.modPort f).log = s.log := rfl

@[simp] theorem nextSeq_modPort (s : State) (f : Port → Port) : (s.modPort f).nextSeq = s.nextSeq := rfl

@[simp] theorem port_modPort (s : State) (f : Port → Port) : (s.modPort f).port = f s.port := rfl

@[simp] theorem pending_modPort (s : State) (f : Port → Port) : (s.modPort f).pending = s.pending := rfl

/-! ### setTracker -/

@[simp] theorem clock_setTracker (s : State) (k : SlotNo) (x : Tracker) : (s.setTracker k x).clock = s.clock := rfl

@[simp] theorem mode_setTracker (s : State) (k : SlotNo) (x : Tracker) : (s.setTracker k x).mode = s.mode := rfl

@[simp] theorem grades_setTracker (s : State) (k : SlotNo) (x : Tracker) : (s.setTracker k x).grades = s.grades := rfl

@[simp] theorem line_setTracker (s : State) (k : SlotNo) (x : Tracker) : (s.setTracker k x).line = s.line := rfl

@[simp] theorem stands_setTracker (s : State) (k : SlotNo) (x : Tracker) : (s.setTracker k x).stands = s.stands := rfl

@[simp] theorem scanNext_setTracker (s : State) (k : SlotNo) (x : Tracker) : (s.setTracker k x).scanNext = s.scanNext := rfl

@[simp] theorem log_setTracker (s : State) (k : SlotNo) (x : Tracker) : (s.setTracker k x).log = s.log := rfl

@[simp] theorem nextSeq_setTracker (s : State) (k : SlotNo) (x : Tracker) : (s.setTracker k x).nextSeq = s.nextSeq := rfl

@[simp] theorem port_setTracker (s : State) (k : SlotNo) (x : Tracker) : (s.setTracker k x).port = s.port := rfl

@[simp] theorem pending_setTracker (s : State) (k : SlotNo) (x : Tracker) : (s.setTracker k x).pending = s.pending := rfl

/-! ### Reading a stand or a tracker after an update -/

@[simp] theorem stand_setStand (s : State) (i j : StandNo) (x : Stand) :
    (s.setStand i x).stand j = if i = j then x else s.stand j := by
  simp only [State.stand, State.setStand, Fin.getElem_fin, Vector.getElem_set, Fin.ext_iff]

@[simp] theorem stand_modStand (s : State) (i j : StandNo) (f : Stand → Stand) :
    (s.modStand i f).stand j = if i = j then f (s.stand i) else s.stand j := by
  simp only [State.modStand, stand_setStand]

@[simp] theorem stand_setClock (s : State) (t : Time) (j : StandNo) : (s.setClock t).stand j = s.stand j := rfl

@[simp] theorem stand_modPort (s : State) (f : Port → Port) (j : StandNo) : (s.modPort f).stand j = s.stand j := rfl

@[simp] theorem stand_setTracker (s : State) (k : SlotNo) (x : Tracker) (j : StandNo) :
    (s.setTracker k x).stand j = s.stand j := rfl

@[simp] theorem tracker_setTracker (s : State) (i j : SlotNo) (x : Tracker) :
    (s.setTracker i x).tracker j = if i = j then x else s.tracker j := by
  simp only [State.tracker, State.setTracker, Fin.getElem_fin, Vector.getElem_set, Fin.ext_iff]

@[simp] theorem tracker_setClock (s : State) (t : Time) (k : SlotNo) : (s.setClock t).tracker k = s.tracker k := rfl

@[simp] theorem tracker_setStand (s : State) (i : StandNo) (x : Stand) (k : SlotNo) :
    (s.setStand i x).tracker k = s.tracker k := rfl

@[simp] theorem tracker_modStand (s : State) (i : StandNo) (f : Stand → Stand) (k : SlotNo) :
    (s.modStand i f).tracker k = s.tracker k := rfl

@[simp] theorem tracker_modPort (s : State) (f : Port → Port) (k : SlotNo) : (s.modPort f).tracker k = s.tracker k :=
  rfl

/-- A stand changed by a function of one of its parts, as a change of the stand. -/
theorem modCtx_eq (s : State) (i : StandNo) (f : Context → Context) :
    s.modCtx i f = s.modStand i fun x => { x with ctx := f x.ctx } := rfl

theorem modLoop_eq (s : State) (i : StandNo) (f : Loop → Loop) :
    s.modLoop i f = s.modStand i fun x => { x with loop := f x.loop } := rfl

theorem modOut_eq (s : State) (i : StandNo) (f : Output → Output) :
    s.modOut i f = s.modStand i fun x => { x with out := f x.out } := rfl

@[simp] theorem stand_modCtx (s : State) (i j : StandNo) (f : Context → Context) :
    (s.modCtx i f).stand j = if i = j then { s.stand i with ctx := f (s.stand i).ctx } else s.stand j := by
  simp only [modCtx_eq, stand_modStand]

@[simp] theorem stand_modLoop (s : State) (i j : StandNo) (f : Loop → Loop) :
    (s.modLoop i f).stand j = if i = j then { s.stand i with loop := f (s.stand i).loop } else s.stand j := by
  simp only [modLoop_eq, stand_modStand]

@[simp] theorem stand_modOut (s : State) (i j : StandNo) (f : Output → Output) :
    (s.modOut i f).stand j = if i = j then { s.stand i with out := f (s.stand i).out } else s.stand j := by
  simp only [modOut_eq, stand_modStand]

@[simp] theorem tracker_modCtx (s : State) (i : StandNo) (f : Context → Context) (k : SlotNo) :
    (s.modCtx i f).tracker k = s.tracker k := rfl

@[simp] theorem tracker_modLoop (s : State) (i : StandNo) (f : Loop → Loop) (k : SlotNo) :
    (s.modLoop i f).tracker k = s.tracker k := rfl

@[simp] theorem tracker_modOut (s : State) (i : StandNo) (f : Output → Output) (k : SlotNo) :
    (s.modOut i f).tracker k = s.tracker k := rfl

/-- Two states with the same stands at every number, and the same other fields, are equal. -/
theorem ext_stands {s t : State} (hst : ∀ i, s.stand i = t.stand i) (htr : ∀ k, s.tracker k = t.tracker k)
    (hc : s.clock = t.clock) (hm : s.mode = t.mode) (hg : s.grades = t.grades) (hl : s.line = t.line)
    (hn : s.scanNext = t.scanNext) (hlog : s.log = t.log) (hq : s.nextSeq = t.nextSeq) (hp : s.port = t.port)
    (hw : s.pending = t.pending) : s = t := by
  have h1 : s.stands = t.stands := Vector.ext fun i hi => hst ⟨i, hi⟩
  have h2 : s.trackers = t.trackers := Vector.ext fun k hk => htr ⟨k, hk⟩
  cases s
  cases t
  simp_all

end State

end Machine

end Sys2Proof
end

