-- ==== Sys2Proof/Laws/Ops.lean ====
section
/-! SUPPORT. For each shared operation, what it changes and what it leaves: the transmit side of the port, or one stand with the log. -/

namespace Sys2Proof

namespace Machine

namespace State

/-! ### Operations on the transmit side alone -/

/-- `t` differs from `s` at most in the transmit queue and its waiting parties. -/
structure TxOnly (s t : State) : Prop where
  eq : t = { s with port := { s.port with
    tx := t.port.tx
    handlerSlot := t.port.handlerSlot
    waitingDrives := t.port.waitingDrives
    waitingNotices := t.port.waitingNotices
    owedReports := t.port.owedReports } }

theorem TxOnly.refl (s : State) : TxOnly s s := ⟨rfl⟩

theorem TxOnly.trans {s t u : State} (h : TxOnly s t) (k : TxOnly t u) : TxOnly s u := by
  constructor
  rw [k.eq, h.eq]

theorem TxOnly.stand {s t : State} (h : TxOnly s t) (i : StandNo) : t.stand i = s.stand i := by
  rw [h.eq]; rfl

theorem TxOnly.tracker {s t : State} (h : TxOnly s t) (k : SlotNo) : t.tracker k = s.tracker k := by
  rw [h.eq]; rfl

theorem TxOnly.stands {s t : State} (h : TxOnly s t) : t.stands = s.stands := by rw [h.eq]

theorem TxOnly.trackers {s t : State} (h : TxOnly s t) : t.trackers = s.trackers := by rw [h.eq]

theorem TxOnly.clock {s t : State} (h : TxOnly s t) : t.clock = s.clock := by rw [h.eq]

theorem TxOnly.mode {s t : State} (h : TxOnly s t) : t.mode = s.mode := by rw [h.eq]

theorem TxOnly.grades {s t : State} (h : TxOnly s t) : t.grades = s.grades := by rw [h.eq]

theorem TxOnly.line {s t : State} (h : TxOnly s t) : t.line = s.line := by rw [h.eq]

theorem TxOnly.log {s t : State} (h : TxOnly s t) : t.log = s.log := by rw [h.eq]

theorem TxOnly.nextSeq {s t : State} (h : TxOnly s t) : t.nextSeq = s.nextSeq := by rw [h.eq]

theorem TxOnly.scanNext {s t : State} (h : TxOnly s t) : t.scanNext = s.scanNext := by rw [h.eq]

theorem TxOnly.pending {s t : State} (h : TxOnly s t) : t.pending = s.pending := by rw [h.eq]

theorem place_txOnly (s : State) (e : TxEntry) : TxOnly s (s.place e) := ⟨rfl⟩

theorem offerReports_txOnly (s : State) : TxOnly s s.offerReports := by
  unfold offerReports
  split
  · exact ⟨rfl⟩
  · split
    · exact .refl s
    · exact ⟨rfl⟩

theorem offer_txOnly (s : State) : TxOnly s s.offer := by
  unfold offer
  split
  · split
    · exact ⟨rfl⟩
    · split
      · exact ⟨rfl⟩
      · split
        · exact ⟨rfl⟩
        · exact offerReports_txOnly s
  · exact .refl s

theorem offerMany_txOnly (n : Nat) (s : State) : TxOnly s (offerMany n s) := by
  induction n generalizing s with
  | zero => exact .refl s
  | succ n ih => exact (offer_txOnly s).trans (ih s.offer)

theorem owe_txOnly (s : State) (i : StandNo) : TxOnly s (s.owe i) := by
  unfold owe
  split
  · exact .refl s
  · exact ⟨rfl⟩

theorem refreshReport_txOnly (s : State) (i : StandNo) : TxOnly s (s.refreshReport i) := ⟨rfl⟩

theorem bringUpReport_txOnly (s : State) (i : StandNo) : TxOnly s (s.bringUpReport i) := by
  unfold bringUpReport
  split
  · exact .refl s
  · split
    · split
      · exact owe_txOnly s i
      · exact refreshReport_txOnly s i
    · split
      · exact place_txOnly s _
      · exact owe_txOnly s i

theorem queueDrive_txOnly (s : State) (i : StandNo) (k : DriveKind) : TxOnly s (s.queueDrive i k) := by
  unfold queueDrive
  split
  · exact place_txOnly s _
  · exact ⟨rfl⟩

theorem killReferences_txOnly (s : State) (i : StandNo) : TxOnly s (s.killReferences i) := ⟨rfl⟩

theorem withdrawReferences_txOnly (s : State) (i : StandNo) : TxOnly s (s.withdrawReferences i) :=
  TxOnly.trans (t := (s.modPort fun p =>
    { p with tx := p.tx.filter fun e => !(e.isReference i && !e.begun) }).killReferences i) ⟨rfl⟩ (offerMany_txOnly _ _)

/-! ### Operations of one stand -/

/-- `t` differs from `s` at most in stand `i`, the splice log and the transmit side. -/
structure OwnChange (i : StandNo) (s t : State) : Prop extends KeepsOthers i s t where
  clock : t.clock = s.clock

theorem OwnChange.refl (i : StandNo) (s : State) : OwnChange i s s :=
  { stands := fun _ _ => rfl, trackers := rfl, grades := rfl, line := rfl, mode := rfl, scanNext := rfl, pending := rfl,
    port := rfl, clock := rfl }

theorem OwnChange.trans {i : StandNo} {s t u : State} (h : OwnChange i s t) (k : OwnChange i t u) : OwnChange i s u where
  stands j hj := (k.stands j hj).trans (h.stands j hj)
  trackers := k.trackers.trans h.trackers
  grades := k.grades.trans h.grades
  line := k.line.trans h.line
  mode := k.mode.trans h.mode
  scanNext := k.scanNext.trans h.scanNext
  pending := k.pending.trans h.pending
  port := by rw [k.port, h.port]
  clock := k.clock.trans h.clock

theorem TxOnly.own {s t : State} (h : TxOnly s t) (i : StandNo) : OwnChange i s t where
  stands j _ := h.stand j
  trackers := h.trackers
  grades := h.grades
  line := h.line
  mode := h.mode
  scanNext := h.scanNext
  pending := h.pending
  port := by rw [h.eq]
  clock := h.clock

theorem modStand_own (s : State) (i : StandNo) (f : Stand → Stand) : OwnChange i s (s.modStand i f) where
  stands j hj := by simp [Ne.symm hj]
  trackers := rfl
  grades := rfl
  line := rfl
  mode := rfl
  scanNext := rfl
  pending := rfl
  port := rfl
  clock := rfl

theorem modCtx_own (s : State) (i : StandNo) (f : Context → Context) : OwnChange i s (s.modCtx i f) :=
  modStand_own s i _

theorem modLoop_own (s : State) (i : StandNo) (f : Loop → Loop) : OwnChange i s (s.modLoop i f) := modStand_own s i _

theorem modOut_own (s : State) (i : StandNo) (f : Output → Output) : OwnChange i s (s.modOut i f) := modStand_own s i _

theorem raise_own (s : State) (i : StandNo) (k : EventKind) : OwnChange i s (s.raise i k) := by
  unfold raise
  split
  · exact .refl i s
  · exact (modStand_own s i _).trans ((bringUpReport_txOnly _ i).own i)

/-- Raising an event changes nothing of the stand but its event set. -/
theorem stand_raise (s : State) (i j : StandNo) (k : EventKind) :
    (s.raise i k).stand j =
      if i = j then { s.stand i with events := (if hasEvent (s.stand i).events k then (s.stand i).events
        else withEvent (s.stand i).events k) } else s.stand j := by
  unfold raise
  split
  · by_cases h : i = j <;> simp_all
  · rw [(bringUpReport_txOnly _ i).stand j]
    by_cases h : i = j <;> simp_all

theorem log_raise (s : State) (i : StandNo) (k : EventKind) :
    (s.raise i k).log = s.log ∧ (s.raise i k).nextSeq = s.nextSeq := by
  unfold raise
  split
  · exact ⟨rfl, rfl⟩
  · exact ⟨(bringUpReport_txOnly _ i).log, (bringUpReport_txOnly _ i).nextSeq⟩

theorem stopLoop_own (s : State) (i : StandNo) : OwnChange i s (s.stopLoop i) :=
  (modLoop_own s i _).trans ((withdrawReferences_txOnly _ i).own i)

/-- Stopping a loop changes nothing of the stand but the loop's activity. -/
theorem stand_stopLoop (s : State) (i j : StandNo) :
    (s.stopLoop i).stand j =
      if i = j then { s.stand i with loop := { (s.stand i).loop with activity := .stopped } } else s.stand j := by
  unfold stopLoop
  rw [(withdrawReferences_txOnly _ i).stand j, stand_modLoop]

theorem stand_queueDrive (s : State) (i j : StandNo) (k : DriveKind) : (s.queueDrive i k).stand j = s.stand j :=
  (queueDrive_txOnly s i k).stand j

theorem placeReference_own (s : State) (i : StandNo) (v : Nat) : OwnChange i s (s.placeReference i v) := by
  unfold placeReference
  split
  · exact TxOnly.own (TxOnly.mk rfl) i |>.trans (modLoop_own _ i _)
  · split
    · exact ((place_txOnly s _).own i).trans (modLoop_own _ i _)
    · exact .refl i s

/-! ### The splice log and notices -/

theorem logRecord_own (s : State) (i : StandNo) (r : SpliceRecord) : OwnChange i s (s.logRecord r) :=
  { stands := fun _ _ => rfl, trackers := rfl, grades := rfl, line := rfl, mode := rfl, scanNext := rfl, pending := rfl,
    port := rfl, clock := rfl }

theorem markUnacked_own (s : State) (i : StandNo) (n : SeqNo) : OwnChange i s (s.markUnacked n) :=
  { stands := fun _ _ => rfl, trackers := rfl, grades := rfl, line := rfl, mode := rfl, scanNext := rfl, pending := rfl,
    port := rfl, clock := rfl }

theorem markAll_own (i : StandNo) (ns : List Notice) (s : State) :
    OwnChange i s (ns.foldl (fun s n => s.markUnacked n.seq) s) := by
  induction ns generalizing s with
  | nil => exact .refl i s
  | cons n ns ih => exact (markUnacked_own s i n.seq).trans (ih _)

theorem dropPendingNotice_own (s : State) (i j : StandNo) : OwnChange i s (s.dropPendingNotice j) :=
  (TxOnly.own (TxOnly.mk rfl) i).trans (markAll_own i _ _)

theorem sendNotice_own (s : State) (i : StandNo) (n : Notice) : OwnChange i s (s.sendNotice n) := by
  unfold sendNotice
  split
  · exact (place_txOnly s _).own i
  · exact (dropPendingNotice_own s i n.stand).trans (TxOnly.own (TxOnly.mk rfl) i)

theorem writeOutcome_own (s : State) (i : StandNo) (o : SpliceOutcome) : OwnChange i s (s.writeOutcome i o) := by
  unfold writeOutcome
  dsimp only
  split
  · exact (logRecord_own s i _).trans (sendNotice_own _ i _)
  · exact logRecord_own s i _

/-- Marking a notice unacknowledged changes no stand. -/
theorem stand_markAll (ns : List Notice) (s : State) (j : StandNo) :
    (ns.foldl (fun s n => s.markUnacked n.seq) s).stand j = s.stand j := by
  induction ns generalizing s with
  | nil => rfl
  | cons n ns ih => exact ih _

theorem stand_sendNotice (s : State) (n : Notice) (j : StandNo) : (s.sendNotice n).stand j = s.stand j := by
  unfold sendNotice
  split
  · rfl
  · exact stand_markAll _ _ j

/-- Writing an outcome changes no stand. -/
theorem stand_writeOutcome (s : State) (i : StandNo) (o : SpliceOutcome) (j : StandNo) :
    (s.writeOutcome i o).stand j = s.stand j := by
  unfold writeOutcome
  dsimp only
  split
  · exact stand_sendNotice _ _ j
  · rfl

/-- Writing an outcome that forms no notice adds its record to the log and changes nothing else. -/
theorem writeOutcome_silent (s : State) (i : StandNo) (o : SpliceOutcome) (h : o = .aborted ∨ o = .runout) :
    s.writeOutcome i o = s.logRecord (s.makeRecord i o) := by
  rcases h with rfl | rfl <;> rfl

/-! ### Horn and moves of a context -/

theorem chooseHorn_own (s : State) (i : StandNo) : OwnChange i s (s.chooseHorn i) := by
  unfold chooseHorn
  dsimp only
  split
  · exact .refl i s
  · exact modOut_own s i _

/-- The horn of a stand after a choice of pattern at this instant (R127). -/
def chosenHorn (x : Stand) (clock : Time) : Horn :=
  if hornPattern x.ctx.state x.ctx.prewarn = x.out.horn.pattern then x.out.horn
  else hornStart (hornPattern x.ctx.state x.ctx.prewarn) x.record.hornPitch clock

/-- The horn's choice changes nothing of the stand but the horn. -/
theorem stand_chooseHorn (s : State) (i j : StandNo) :
    (s.chooseHorn i).stand j =
      if i = j then { s.stand i with out := { (s.stand i).out with horn := chosenHorn (s.stand i) s.clock } }
      else s.stand j := by
  unfold chooseHorn chosenHorn
  dsimp only
  by_cases h : i = j
  · subst h
    split <;> simp_all
  · split <;> simp_all

/-- After the horn's choice its pattern is the one that the context calls for (R126, R127). -/
theorem pattern_chosenHorn (x : Stand) (clock : Time) :
    (chosenHorn x clock).pattern = hornPattern x.ctx.state x.ctx.prewarn := by
  unfold chosenHorn
  split
  · rename_i h
    exact h.symm
  · cases hornPattern x.ctx.state x.ctx.prewarn <;> rfl

theorem enterState_own (s : State) (i : StandNo) (c : CtxState) : OwnChange i s (s.enterState i c) :=
  (modCtx_own s i _).trans (chooseHorn_own _ i)

theorem setPrewarn_own (s : State) (i : StandNo) (b : Bool) : OwnChange i s (s.setPrewarn i b) :=
  (modCtx_own s i _).trans (chooseHorn_own _ i)

theorem risePrewarn_own (s : State) (i : StandNo) : OwnChange i s (s.risePrewarn i) := by
  unfold risePrewarn
  split
  · exact .refl i s
  · exact (setPrewarn_own s i true).trans (raise_own _ i _)

theorem enterRest_own (s : State) (i : StandNo) : OwnChange i s (s.enterRest i) :=
  (modCtx_own s i _).trans (chooseHorn_own _ i)

theorem settle_own (s : State) (i : StandNo) : OwnChange i s (s.settle i) := by
  unfold settle
  split
  · exact enterRest_own s i
  · exact .refl i s

theorem clearHeadReady_own (s : State) (i : StandNo) : OwnChange i s (s.clearHeadReady i) := modStand_own s i _

theorem abort_own (s : State) (i : StandNo) (c : AbortCause) : OwnChange i s (s.abort i c) := by
  unfold abort
  exact (enterState_own s i _).trans <| (modOut_own _ i _).trans <| (modCtx_own _ i _).trans <|
    (writeOutcome_own _ i _).trans <| (clearHeadReady_own _ i).trans <| (stopLoop_own _ i).trans <|
    ((queueDrive_txOnly _ i _).own i).trans <| (setPrewarn_own _ i _).trans <| (raise_own _ i _).trans (modCtx_own _ i _)

theorem abortBeforeFire_own (s : State) (i : StandNo) (c : AbortCause) : OwnChange i s (s.abortBeforeFire i c) := by
  unfold abortBeforeFire
  split
  · exact abort_own s i c
  · exact .refl i s

theorem enterFireWait_own (s : State) (i : StandNo) : OwnChange i s (s.enterFireWait i) := by
  unfold enterFireWait
  dsimp only
  split
  · exact (enterState_own s i _).trans (abort_own _ i _)
  · exact (enterState_own s i _).trans (modCtx_own _ i _)

theorem enterMatched_own (s : State) (i : StandNo) : OwnChange i s (s.enterMatched i) := by
  unfold enterMatched
  dsimp only
  split
  · exact (enterState_own s i _).trans (abort_own _ i _)
  · split
    · exact (enterState_own s i _).trans (enterFireWait_own _ i)
    · exact enterState_own s i _

theorem lockSet_own (s : State) (i : StandNo) : OwnChange i s (s.lockSet i) := by
  unfold lockSet
  split
  · exact enterMatched_own s i
  · exact .refl i s

theorem lockCleared_own (s : State) (i : StandNo) : OwnChange i s (s.lockCleared i) := by
  unfold lockCleared
  split
  all_goals first
    | exact (modOut_own s i _).trans ((modCtx_own _ i _).trans (enterState_own _ i _))
    | exact .refl i s

theorem leaveFireSet_own (s : State) (i : StandNo) : OwnChange i s (s.leaveFireSet i) := by
  unfold leaveFireSet
  split
  · exact (modOut_own s i _).trans (enterState_own _ i _)
  · exact .refl i s

theorem announceRunout_own (s : State) (i : StandNo) : OwnChange i s (s.announceRunout i) := by
  unfold announceRunout
  split
  all_goals first
    | exact abort_own s i _
    | exact writeOutcome_own s i _
    | exact .refl i s

theorem runoutCheck_own (s : State) (i : StandNo) : OwnChange i s (s.runoutCheck i) := by
  unfold runoutCheck
  dsimp only
  split
  · exact (modStand_own s i _).trans ((raise_own _ i _).trans (announceRunout_own _ i))
  · exact .refl i s

theorem fixFresh_own (s : State) (i : StandNo) : OwnChange i s (s.fixFresh i) := by
  unfold fixFresh
  split
  · exact .refl i s
  · exact modStand_own s i _

theorem resetLoop_own (s : State) (i : StandNo) : OwnChange i s (s.resetLoop i) := by
  unfold resetLoop
  dsimp only
  split
  · exact (modLoop_own s i _).trans <| ((killReferences_txOnly _ i).own i).trans <|
      (TxOnly.own (TxOnly.mk rfl) i).trans (raise_own _ i _)
  · exact (modLoop_own s i _).trans ((killReferences_txOnly _ i).own i)

theorem enterRunUp_own (s : State) (i : StandNo) : OwnChange i s (s.enterRunUp i) := by
  unfold enterRunUp
  exact (enterState_own s i _).trans <| (modCtx_own _ i _).trans <| (fixFresh_own _ i).trans <|
    (resetLoop_own _ i).trans <| (risePrewarn_own _ i).trans (raise_own _ i _)

theorem forceOff_own (s : State) (i : StandNo) : OwnChange i s (s.forceOff i) := modOut_own s i _

theorem failInterlock_own (s : State) (i : StandNo) : OwnChange i s (s.failInterlock i) := by
  unfold failInterlock
  exact (forceOff_own s i).trans <| (modOut_own _ i _).trans <| (writeOutcome_own _ i _).trans <|
    (stopLoop_own _ i).trans <| ((queueDrive_txOnly _ i _).own i).trans <| (enterState_own _ i _).trans <|
    (clearHeadReady_own _ i).trans <| (setPrewarn_own _ i _).trans (modCtx_own _ i _)

theorem swap_own (s : State) (i : StandNo) : OwnChange i s (s.swap i) :=
  (modStand_own s i _).trans (runoutCheck_own _ i)

theorem breakWeb_own (s : State) (i : StandNo) : OwnChange i s (s.breakWeb i) := modStand_own s i _

theorem endSplice_own (s : State) (i : StandNo) : OwnChange i s (s.endSplice i) :=
  (stopLoop_own s i).trans ((forceOff_own _ i).trans (enterRest_own _ i))

end State

end Machine

end Sys2Proof
end

