-- ==== Sys2Proof/Laws/Requests.lean ====
section
/-! SUPPORT. The taking of a request by the handler, and the placing of its reply. -/

namespace Sys2Proof

namespace Machine

namespace State

theorem allStands_nodup : allStands.Nodup := by decide

theorem mem_allStands (i : StandNo) : i ∈ allStands := by
  revert i
  decide

theorem foldStands_stand (f : StandNo → Stand → Stand) (l : List StandNo) (hl : l.Nodup) (s : State) (j : StandNo) :
    (l.foldl (fun s i => s.modStand i (f i)) s).stand j = if j ∈ l then f j (s.stand j) else s.stand j := by
  induction l generalizing s with
  | nil => simp
  | cons i l ih =>
    rw [List.nodup_cons] at hl
    rw [List.foldl_cons, ih hl.2, stand_modStand]
    by_cases h : i = j
    · subst h
      simp [hl.1]
    · have h' : ¬ j = i := fun e => h e.symm
      simp [h, h']

/-- A change of each stand by its own content alone. -/
theorem mapStands_stand (s : State) (f : StandNo → Stand → Stand) (j : StandNo) :
    (s.mapStands f).stand j = f j (s.stand j) := by
  unfold State.mapStands
  rw [foldStands_stand f allStands allStands_nodup, if_pos (mem_allStands j)]

theorem foldStands_rest (f : StandNo → Stand → Stand) (l : List StandNo) (s : State) :
    l.foldl (fun s i => s.modStand i (f i)) s =
      { s with stands := (l.foldl (fun s i => s.modStand i (f i)) s).stands } := by
  induction l generalizing s with
  | nil => rfl
  | cons i l ih => exact ih (s.modStand i (f i))

theorem mapStands_rest (s : State) (f : StandNo → Stand → Stand) :
    s.mapStands f = { s with stands := (s.mapStands f).stands } := foldStands_rest f allStands s

theorem foldTrackers_tracker (f : SlotNo → Tracker → Tracker) (l : List SlotNo) (hl : l.Nodup) (s : State)
    (j : SlotNo) :
    (l.foldl (fun s k => s.setTracker k (f k (s.tracker k))) s).tracker j =
      if j ∈ l then f j (s.tracker j) else s.tracker j := by
  induction l generalizing s with
  | nil => simp
  | cons i l ih =>
    rw [List.nodup_cons] at hl
    rw [List.foldl_cons, ih hl.2, tracker_setTracker]
    by_cases h : i = j
    · subst h
      simp [hl.1]
    · have h' : ¬ j = i := fun e => h e.symm
      simp [h, h']

/-- A change of each tracker by its own content alone. -/
theorem mapTrackers_tracker (s : State) (f : SlotNo → Tracker → Tracker) (j : SlotNo) :
    (s.mapTrackers f).tracker j = f j (s.tracker j) := by
  unfold State.mapTrackers
  rw [foldTrackers_tracker f allStands allStands_nodup, if_pos (mem_allStands j)]

theorem foldTrackers_rest (f : SlotNo → Tracker → Tracker) (l : List SlotNo) (s : State) :
    l.foldl (fun s k => s.setTracker k (f k (s.tracker k))) s =
      { s with trackers := (l.foldl (fun s k => s.setTracker k (f k (s.tracker k))) s).trackers } := by
  induction l generalizing s with
  | nil => rfl
  | cons i l ih => exact ih (s.setTracker i (f i (s.tracker i)))

theorem mapTrackers_rest (s : State) (f : SlotNo → Tracker → Tracker) :
    s.mapTrackers f = { s with trackers := (s.mapTrackers f).trackers } := foldTrackers_rest f allStands s

@[simp] theorem stand_taking (s : State) (t : Time) (f : Frame) (j : StandNo) :
    (s.taking t f).stand j =
      { s.stand j with lock := (s.stand j).lock.map fun l =>
          if l.holder = f.sender then { l with expiry := t + 5000000 } else l } := by
  simp [State.taking, State.stand]

/-- The handler's taking of a frame is the taking that the statements describe. -/
theorem takeFrame_eq (s : State) (t : Time) (f : Frame) : (s.setClock t).takeFrame f = s.taking t f := by
  apply ext_stands
  · intro i
    rw [stand_taking]
    unfold State.takeFrame State.refreshLocks
    rw [mapStands_stand]
    rfl
  all_goals first | rfl | exact fun _ => rfl

theorem canReply_of_canTake {s : State} {f : Frame} (h : s.CanTake f) (t : Time) : (s.setClock t).canReply = true := by
  obtain ⟨-, -, h | ⟨h1, h2, h3, h4, h5⟩⟩ := h
  · simp [State.canReply, h]
  · simp [State.canReply, State.hasFree, State.usedSlots, State.nobodyWaits, Config.txCapacity, h1, h2, h3, h4, h5]

/-- A frame that the handler can take, and that the row takes, has its request applied and its reply placed. -/
theorem handle_of_canTake {s : State} {f : Frame} (h : s.CanTake f) (t : Time) (takes : Frame → Bool) (ask : Bool)
    (body : Frame → State → Answer) (ht : takes f = true) :
    (s.setClock t).handle takes ask body =
      (body f (s.taking t f)).state.replied f (body f (s.taking t f)).result (body f (s.taking t f)).data := by
  have hc := canReply_of_canTake h t
  obtain ⟨h1, h2, -⟩ := h
  obtain ⟨l, hl⟩ : ∃ l, s.port.rx = f :: l := by
    cases hr : s.port.rx with
    | nil => simp [hr] at h1
    | cons a l => simp [hr] at h1; exact ⟨l, by rw [h1]⟩
  unfold State.handle
  rw [port_setClock, hl]
  simp only [ht, h2, hc, if_true, takeFrame_eq]
  rfl

/-- A frame addressed to a group or to 255, with no slot handed over: an ASK request is dropped, any other request has its
effect without a reply. -/
theorem handle_group {s : State} {f : Frame} (h : s.port.rx.head? = some f) (hg : f.individual = false)
    (hs : s.port.handlerSlot = false) (t : Time) (takes : Frame → Bool) (ask : Bool) (body : Frame → State → Answer)
    (ht : takes f = true) :
    (s.setClock t).handle takes ask body =
      if ask then (s.setClock t).popFrame else (body f (s.setClock t).popFrame).state := by
  obtain ⟨l, hl⟩ : ∃ l, s.port.rx = f :: l := by
    cases hr : s.port.rx with
    | nil => simp [hr] at h
    | cons a l => simp [hr] at h; exact ⟨l, by rw [h]⟩
  have hr : (s.setClock t).popFrame.returnSlot = (s.setClock t).popFrame := by
    unfold State.returnSlot
    rw [if_neg]
    show ¬ s.port.handlerSlot = true
    rw [hs]
    simp
  unfold State.handle
  rw [port_setClock, hl]
  simp only [ht, hg, hr, if_true, Bool.false_eq_true, if_false]

/-- A request that refuses leaves the part as the taking left it, with the reply. -/
theorem handle_refused {s : State} {f : Frame} (h : s.CanTake f) (t : Time) (takes : Frame → Bool) (ask : Bool)
    (body : Frame → State → Answer) (ht : takes f = true) (r : Result)
    (hb : body f (s.taking t f) = refuse (s.taking t f) r) :
    (s.setClock t).handle takes ask body = (s.taking t f).replied f r [] := by
  rw [handle_of_canTake h t takes ask body ht, hb]
  rfl

end State

end Machine

end Sys2Proof
end

