-- ==== Sys2Proof/Laws/Splice.lean ====
section
/-! SUPPORT. What an abort, an entry to RUNUP and the other moves of a splice come to, each said once. -/

namespace Sys2Proof

namespace Machine

namespace State

/-! ### The splice log through the moves -/

@[simp] theorem log_chooseHorn (s : State) (i : StandNo) : (s.chooseHorn i).log = s.log := by
  unfold chooseHorn
  dsimp only
  split <;> rfl

@[simp] theorem nextSeq_chooseHorn (s : State) (i : StandNo) : (s.chooseHorn i).nextSeq = s.nextSeq := by
  unfold chooseHorn
  dsimp only
  split <;> rfl

@[simp] theorem port_chooseHorn (s : State) (i : StandNo) : (s.chooseHorn i).port = s.port := by
  unfold chooseHorn
  dsimp only
  split <;> rfl

@[simp] theorem clock_chooseHorn (s : State) (i : StandNo) : (s.chooseHorn i).clock = s.clock := by
  unfold chooseHorn
  dsimp only
  split <;> rfl

@[simp] theorem log_enterState (s : State) (i : StandNo) (c : CtxState) : (s.enterState i c).log = s.log := by
  simp [enterState]

@[simp] theorem nextSeq_enterState (s : State) (i : StandNo) (c : CtxState) :
    (s.enterState i c).nextSeq = s.nextSeq := by
  simp [enterState]

@[simp] theorem clock_enterState (s : State) (i : StandNo) (c : CtxState) : (s.enterState i c).clock = s.clock := by
  simp [enterState]

@[simp] theorem port_enterState (s : State) (i : StandNo) (c : CtxState) : (s.enterState i c).port = s.port := by
  simp [enterState]

@[simp] theorem log_setPrewarn (s : State) (i : StandNo) (b : Bool) : (s.setPrewarn i b).log = s.log := by
  simp [setPrewarn]

@[simp] theorem nextSeq_setPrewarn (s : State) (i : StandNo) (b : Bool) : (s.setPrewarn i b).nextSeq = s.nextSeq := by
  simp [setPrewarn]

@[simp] theorem clock_setPrewarn (s : State) (i : StandNo) (b : Bool) : (s.setPrewarn i b).clock = s.clock := by
  simp [setPrewarn]

@[simp] theorem port_setPrewarn (s : State) (i : StandNo) (b : Bool) : (s.setPrewarn i b).port = s.port := by
  simp [setPrewarn]

@[simp] theorem log_raise_eq (s : State) (i : StandNo) (k : EventKind) : (s.raise i k).log = s.log := (log_raise s i k).1

@[simp] theorem nextSeq_raise_eq (s : State) (i : StandNo) (k : EventKind) : (s.raise i k).nextSeq = s.nextSeq :=
  (log_raise s i k).2

@[simp] theorem clock_raise (s : State) (i : StandNo) (k : EventKind) : (s.raise i k).clock = s.clock :=
  (raise_own s i k).clock

@[simp] theorem log_stopLoop (s : State) (i : StandNo) : (s.stopLoop i).log = s.log :=
  (withdrawReferences_txOnly _ i).log

@[simp] theorem nextSeq_stopLoop (s : State) (i : StandNo) : (s.stopLoop i).nextSeq = s.nextSeq :=
  (withdrawReferences_txOnly _ i).nextSeq

@[simp] theorem clock_stopLoop (s : State) (i : StandNo) : (s.stopLoop i).clock = s.clock :=
  (withdrawReferences_txOnly _ i).clock

@[simp] theorem log_queueDrive (s : State) (i : StandNo) (k : DriveKind) : (s.queueDrive i k).log = s.log :=
  (queueDrive_txOnly s i k).log

@[simp] theorem nextSeq_queueDrive (s : State) (i : StandNo) (k : DriveKind) : (s.queueDrive i k).nextSeq = s.nextSeq :=
  (queueDrive_txOnly s i k).nextSeq

@[simp] theorem clock_queueDrive (s : State) (i : StandNo) (k : DriveKind) : (s.queueDrive i k).clock = s.clock :=
  (queueDrive_txOnly s i k).clock

@[simp] theorem log_clearHeadReady (s : State) (i : StandNo) : (s.clearHeadReady i).log = s.log := rfl

@[simp] theorem nextSeq_clearHeadReady (s : State) (i : StandNo) : (s.clearHeadReady i).nextSeq = s.nextSeq := rfl

@[simp] theorem clock_clearHeadReady (s : State) (i : StandNo) : (s.clearHeadReady i).clock = s.clock := rfl

@[simp] theorem port_clearHeadReady (s : State) (i : StandNo) : (s.clearHeadReady i).port = s.port := rfl

@[simp] theorem stand_clearHeadReady (s : State) (i j : StandNo) :
    (s.clearHeadReady i).stand j =
      if i = j then { s.stand i with queue := (s.stand i).queue.modifyHead fun r => { r with ready := false } }
      else s.stand j := by
  unfold clearHeadReady
  rw [stand_modStand]

theorem stand_enterState (s : State) (i j : StandNo) (c : CtxState) :
    (s.enterState i c).stand j =
      if i = j then { s.stand i with
        ctx := { (s.stand i).ctx with state := c }
        out := { (s.stand i).out with
          horn := chosenHorn { s.stand i with ctx := { (s.stand i).ctx with state := c } } s.clock } }
      else s.stand j := by
  unfold enterState
  by_cases h : i = j
  · subst h
    simp [stand_chooseHorn]
  · simp [stand_chooseHorn, h]

theorem stand_setPrewarn (s : State) (i j : StandNo) (b : Bool) :
    (s.setPrewarn i b).stand j =
      if i = j then { s.stand i with
        ctx := { (s.stand i).ctx with prewarn := b }
        out := { (s.stand i).out with
          horn := chosenHorn { s.stand i with ctx := { (s.stand i).ctx with prewarn := b } } s.clock } }
      else s.stand j := by
  unfold setPrewarn
  by_cases h : i = j
  · subst h
    simp [stand_chooseHorn]
  · simp [stand_chooseHorn, h]

/-- An event already latched and one set anew give the same set. -/
theorem withEvent_of_has {e : EventSet} {k : EventKind} (h : hasEvent e k = true) : withEvent e k = e := by
  unfold withEvent hasEvent at *
  apply BitVec.eq_of_getLsbD_eq
  intro j hj
  rw [BitVec.getLsbD_or, BitVec.getLsbD_twoPow]
  by_cases hk : k.code = j
  · subst hk
    simp [h]
  · simp [hk]

/-- Raising an event changes nothing of the stand but the mark. -/
@[simp] theorem stand_raise_eq (s : State) (i j : StandNo) (k : EventKind) :
    (s.raise i k).stand j =
      if i = j then { s.stand i with events := withEvent (s.stand i).events k } else s.stand j := by
  rw [stand_raise]
  by_cases h : hasEvent (s.stand i).events k = true
  · simp [h, withEvent_of_has h]
  · simp [h]

@[simp] theorem stand_stopLoop_eq (s : State) (i j : StandNo) :
    (s.stopLoop i).stand j =
      if i = j then { s.stand i with loop := { (s.stand i).loop with activity := .stopped } } else s.stand j :=
  stand_stopLoop s i j

/-! ### Entries and waiting drive orders through the reports -/

/-- The entry is no REFERENCE. -/
def NotReference (e : TxEntry) : Prop := ∀ i v, e.body ≠ .reference i v

theorem offer_tx (s : State) : ∀ e ∈ s.offer.port.tx, e ∈ s.port.tx ∨ NotReference e := by
  unfold offer
  split
  · split
    · intro e he
      simp only [place, port_modPort, List.mem_append, List.mem_singleton] at he
      rcases he with he | rfl
      · exact .inl he
      · right
        intro i v
        rename_i d _ _
        cases hk : d.kind <;> simp [driveEntry]
    · split
      · intro e he
        simp only [place, port_modPort, List.mem_append, List.mem_singleton] at he
        rcases he with he | rfl
        · exact .inl he
        · right
          intro i v
          simp [Notice.entry]
      · split
        · intro e he
          exact .inl he
        · unfold offerReports
          split
          · intro e he
            exact .inl he
          · split
            · intro e he
              exact .inl he
            · intro e he
              simp only [place, port_modPort, List.mem_append, List.mem_singleton] at he
              rcases he with he | rfl
              · exact .inl he
              · right
                intro i v
                simp [reportEntry, reportBody]
  · intro e he
    exact .inl he

theorem offerMany_tx (n : Nat) (s : State) : ∀ e ∈ (offerMany n s).port.tx, e ∈ s.port.tx ∨ NotReference e := by
  induction n generalizing s with
  | zero => exact fun e he => .inl he
  | succ n ih =>
    intro e he
    rcases ih s.offer e he with h | h
    · exact offer_tx s e h
    · exact .inr h

theorem isReference_of_body {e : TxEntry} {i : StandNo} {v : Nat} (h : e.body = .reference i v) :
    e.isReference i = true := by
  simp [TxEntry.isReference, h]

/-- After a stop no REFERENCE of the stand that is not begun stands in the queue (R105). -/
theorem withdrawReferences_withdrawn (s : State) (i : StandNo) : (s.withdrawReferences i).ReferencesWithdrawn i := by
  intro e he v hv
  unfold withdrawReferences at he
  rcases offerMany_tx _ _ e he with h | h
  · simp only [killReferences, port_modPort, List.mem_map, List.mem_filter] at h
    obtain ⟨a, ⟨-, hb⟩, rfl⟩ := h
    split at hv
    · rename_i ha
      rw [if_pos ha]
      simpa [ha] using hb
    · rename_i ha
      exact absurd (isReference_of_body hv) ha
  · exact absurd hv (h i v)

theorem queueDrive_withdrawn {s : State} {i : StandNo} (h : s.ReferencesWithdrawn i) (k : DriveKind) :
    (s.queueDrive i k).ReferencesWithdrawn i := by
  intro e he v hv
  unfold queueDrive at he
  split at he
  · simp only [place, port_modPort, List.mem_append, List.mem_singleton] at he
    rcases he with he | rfl
    · exact h e he v hv
    · cases k <;> simp [driveEntry] at hv
  · exact h e he v hv

theorem bringUpReport_tx (s : State) (i : StandNo) :
    (∀ e ∈ s.port.tx, (∀ j c v, e.body ≠ .report j c v) → e ∈ (s.bringUpReport i).port.tx) ∧
      (∀ e ∈ (s.bringUpReport i).port.tx, NotReference e ∨ e ∈ s.port.tx) ∧
      (s.bringUpReport i).port.waitingDrives = s.port.waitingDrives := by
  have keep : ∀ x : State, x.port.tx = s.port.tx → x.port.waitingDrives = s.port.waitingDrives →
      (∀ e ∈ s.port.tx, (∀ j c v, e.body ≠ .report j c v) → e ∈ x.port.tx) ∧
      (∀ e ∈ x.port.tx, NotReference e ∨ e ∈ s.port.tx) ∧ x.port.waitingDrives = s.port.waitingDrives := by
    intro x h1 h2
    refine ⟨fun e he _ => h1 ▸ he, fun e he => .inr (h1 ▸ he), h2⟩
  have owes : (s.owe i).port.tx = s.port.tx ∧ (s.owe i).port.waitingDrives = s.port.waitingDrives := by
    unfold owe
    split <;> exact ⟨rfl, rfl⟩
  unfold bringUpReport
  split
  · exact keep s rfl rfl
  · split
    · split
      · exact keep _ owes.1 owes.2
      · refine ⟨?_, ?_, rfl⟩
        · intro e he hn
          simp only [refreshReport, port_modPort, List.mem_map]
          refine ⟨e, he, ?_⟩
          rw [if_neg]
          intro hc
          unfold TxEntry.isReport at hc
          cases hb : e.body with
          | report j c v => exact hn j c v hb
          | _ => simp [hb] at hc
        · intro e he
          simp only [refreshReport, port_modPort, List.mem_map] at he
          obtain ⟨a, ha, rfl⟩ := he
          split
          · left
            intro j v
            simp [reportBody]
          · exact .inr ha
    · split
      · refine ⟨?_, ?_, rfl⟩
        · intro e he _
          simp only [place, port_modPort, List.mem_append]
          exact .inl he
        · intro e he
          simp only [place, port_modPort, List.mem_append, List.mem_singleton] at he
          rcases he with he | rfl
          · exact .inr he
          · left
            intro j v
            simp [reportEntry, reportBody]
      · exact keep _ owes.1 owes.2

theorem raise_tx (s : State) (i : StandNo) (k : EventKind) :
    (∀ e ∈ s.port.tx, (∀ j c v, e.body ≠ .report j c v) → e ∈ (s.raise i k).port.tx) ∧
      (∀ e ∈ (s.raise i k).port.tx, NotReference e ∨ e ∈ s.port.tx) ∧
      (s.raise i k).port.waitingDrives = s.port.waitingDrives := by
  unfold raise
  split
  · exact ⟨fun e he _ => he, fun e he => .inr he, rfl⟩
  · exact bringUpReport_tx (s.modStand i fun x => { x with events := withEvent x.events k }) i

theorem raise_withdrawn {s : State} {i : StandNo} (h : s.ReferencesWithdrawn i) (j : StandNo) (k : EventKind) :
    (s.raise j k).ReferencesWithdrawn i := by
  intro e he v hv
  rcases (raise_tx s j k).2.1 e he with h' | h'
  · exact absurd hv (h' i v)
  · exact h e h' v hv

/-- A HANDOVER or RELEASE is on its way once it is placed or held (R102 to R104). -/
theorem queueDrive_ordered (s : State) (i : StandNo) (k : DriveKind) : (s.queueDrive i k).DriveOrdered i k := by
  unfold queueDrive
  split
  · left
    refine ⟨s.driveEntry i k, by simp [place], ?_⟩
    cases k <;> exact ⟨rfl, rfl, rfl⟩
  · right
    simp

theorem raise_ordered {s : State} {i : StandNo} {k : DriveKind} (h : s.DriveOrdered i k) (j : StandNo) (q : EventKind) :
    (s.raise j q).DriveOrdered i k := by
  have hst : ((s.raise j q).stand i).record = (s.stand i).record ∧ ((s.raise j q).stand i).loop = (s.stand i).loop := by
    rw [stand_raise_eq]
    by_cases h : j = i
    · subst h
      simp
    · simp [h]
  rcases h with ⟨e, he, h1, h2, h3⟩ | h
  · refine .inl ⟨e, (raise_tx s j q).1 e he ?_, h1, by rw [hst.1]; exact h2, ?_⟩
    · intro a b c hb
      cases k <;> simp [hb] at h3
    · cases k
      · show e.body = .handover i ((s.raise j q).stand i).loop.reference
        rw [hst.2]
        exact h3
      · exact h3
  · right
    rw [(raise_tx s j q).2.2]
    exact h

/-! ### Aborts -/

theorem makeRecord_aborted (s : State) (i : StandNo) (c : AbortCause) (h : (s.stand i).ctx.cause = some c) :
    s.makeRecord i .aborted = s.abortRecord i c := by
  unfold makeRecord abortRecord runningId headId head reelIds
  cases h1 : (s.stand i).running <;> cases h2 : (s.stand i).queue <;> simp_all

theorem newest_append (l : List SpliceRecord) (r : SpliceRecord) :
    l.drop (l.length + 1 - 48) ++ [r] = newest 48 (l ++ [r]) := by
  unfold newest
  rw [List.length_append, List.length_singleton, List.drop_append]
  have : l.length + 1 - 48 - l.length = 0 := by omega
  rw [this]
  rfl

/-- The stand after an abort, with the horn spelled out. -/
theorem stand_abort (s : State) (i : StandNo) (c : AbortCause) :
    ∃ h : Horn, h.pattern = .off ∧ (s.abort i c).stand i = { s.stand i with
      queue := (s.stand i).queue.modifyHead fun r => { r with ready := false }
      ctx := { (s.stand i).ctx with
        state := .stopping
        cause := some c
        missingTabAt := none
        prewarn := false
        stoppingAt := some (s.clock + 15000000) }
      loop := { (s.stand i).loop with activity := .stopped }
      out := { (s.stand i).out with pasterAt := none, horn := h }
      events := latched (s.stand i).events [.aborted] } := by
  unfold abort
  simp only [stand_modCtx, if_true, stand_raise_eq, stand_setPrewarn, stand_queueDrive, stand_stopLoop_eq,
    stand_clearHeadReady, stand_writeOutcome, stand_modOut, stand_enterState, clock_raise, clock_setPrewarn,
    clock_queueDrive, clock_stopLoop, clock_clearHeadReady, (writeOutcome_own _ i _).clock, clock_modCtx, clock_modOut,
    clock_enterState]
  exact ⟨_, pattern_chosenHorn _ _, rfl⟩

/-- The abort, said once (R84). -/
theorem abort_spec (s : State) (i : StandNo) (c : AbortCause) : AbortedBy i c [] s (s.abort i c) := by
  obtain ⟨h, hh, hs⟩ := stand_abort s i c
  have hr : (((((((s.enterState i .stopping).modOut i fun o => { o with pasterAt := none }).modCtx i
      fun x => { x with missingTabAt := none, cause := some c }).writeOutcome i .aborted).clearHeadReady i).stopLoop
      i).queueDrive i .release).DriveOrdered i .release := queueDrive_ordered _ i .release
  have hw : (((((((s.enterState i .stopping).modOut i fun o => { o with pasterAt := none }).modCtx i
      fun x => { x with missingTabAt := none, cause := some c }).writeOutcome i .aborted).clearHeadReady i).stopLoop
      i).queueDrive i .release).ReferencesWithdrawn i := queueDrive_withdrawn (withdrawReferences_withdrawn _ i) .release
  generalize hx : (((((((s.enterState i .stopping).modOut i fun o => { o with pasterAt := none }).modCtx i
      fun x => { x with missingTabAt := none, cause := some c }).writeOutcome i .aborted).clearHeadReady i).stopLoop
      i).queueDrive i .release) = x at hr hw
  have hu : s.abort i c = ((x.setPrewarn i false).raise i .aborted).modCtx i
      fun y => { y with stoppingAt := some (after (((x.setPrewarn i false).raise i .aborted).clock)
        Config.stoppingDelay) } := by
    subst hx
    rfl
  have hl : x.log = newest 48 (s.log ++ [s.abortRecord i c]) ∧ x.nextSeq = s.nextSeq + 1 := by
    subst hx
    simp only [log_queueDrive, log_stopLoop, log_clearHeadReady, nextSeq_queueDrive, nextSeq_stopLoop,
      nextSeq_clearHeadReady]
    rw [writeOutcome_silent _ _ _ (.inl rfl), makeRecord_aborted _ i c (by simp)]
    refine ⟨?_, by simp [logRecord]⟩
    unfold logRecord
    dsimp only
    simp only [log_modCtx, log_modOut, log_enterState]
    rw [show Config.logCapacity = 48 from rfl, newest_append]
    simp [abortRecord, reelIds, stand_enterState]
  have hxs : (x.setPrewarn i false).DriveOrdered i .release := by
    rcases hr with ⟨e, he, h1, h2, h3⟩ | hr
    · refine .inl ⟨e, by simpa using he, h1, ?_, h3⟩
      rw [stand_setPrewarn, if_pos rfl]
      exact h2
    · exact .inr (by simpa using hr)
  have hro := raise_ordered hxs i .aborted
  have hwo : ((x.setPrewarn i false).raise i .aborted).ReferencesWithdrawn i :=
    raise_withdrawn (s := x.setPrewarn i false) (by simpa [ReferencesWithdrawn] using hw) i .aborted
  exact {
    others := (abort_own s i c).toKeepsOthers
    clock := (abort_own s i c).clock
    stand := by rw [hs]; rfl
    horn := by rw [hs]; exact hh
    log := by rw [hu]; simpa using hl.1
    nextSeq := by rw [hu]; simpa using hl.2
    release := by
      rw [hu]
      rcases hro with ⟨e, he, h1, h2, h3⟩ | hro
      · refine .inl ⟨e, he, h1, ?_, h3⟩
        rw [stand_modCtx, if_pos rfl]
        exact h2
      · exact .inr hro
    withdrawn := by
      rw [hu]
      exact hwo }

/-! ### Entry to RUNUP -/

theorem selectFresh_eq (s : State) (i : StandNo) (r : ReelRecord) (h : (s.stand i).queue.head? = some r) :
    s.selectFresh i = some (s.freshChoice i r) := by
  unfold selectFresh head freshChoice
  rw [h]
  dsimp only
  cases r.diameter with
  | some d => rfl
  | none =>
    dsimp only
    split
    · have hc : ∀ a b : Nat, (clampInt a 14000 b).toNat = if b < a then a else if 14000 < b then 14000 else b := by
        intro a b
        unfold clampInt
        repeat' split
        all_goals omega
      have hc' := hc ((s.grade r.grade).spliceDiameter + 1000) (s.stand i).sensor.diameter
      rw [Int.natCast_add] at hc'
      exact congrArg (fun d => some (d, FreshSource.sensor)) hc'
    · rfl

theorem stand_fixFresh (s : State) (i j : StandNo) (r : ReelRecord) (h : (s.stand i).queue.head? = some r) :
    (s.fixFresh i).stand j =
      if i = j then { s.stand i with dFresh := (s.freshChoice i r).1, source := (s.freshChoice i r).2 }
      else s.stand j := by
  unfold fixFresh
  rw [selectFresh_eq s i r h]
  dsimp only
  rw [stand_modStand]

/-- The figures of a context that a new splice starts with (R67, step 1). -/
def freshFigures (x : Context) : Context :=
  { x with vFire := 0, dRunFire := 0, eFire := 0, joint := 0, tailLong := false, tailShort := false, excursion := false }

theorem resetLoop_free (s : State) (i : StandNo) (h : ∀ d ∈ s.port.waitingDrives, d.stand ≠ i) :
    s.resetLoop i = (s.modLoop i fun _ => { Loop.start with activity := .running }).killReferences i := by
  unfold resetLoop
  dsimp only
  rw [if_neg]
  simp only [List.any_eq_true, beq_iff_eq, not_exists, not_and]
  exact h

theorem risePrewarn_stand (s : State) (i : StandNo) :
    ∃ o : Output, (s.risePrewarn i).stand i = { s.stand i with
        ctx := { (s.stand i).ctx with prewarn := true }
        out := o
        events := latched (s.stand i).events (if (s.stand i).ctx.prewarn then [] else [.prewarn]) } ∧
      o = { (s.stand i).out with horn := o.horn } ∧
      ((s.stand i).ctx.prewarn = false → o.horn.pattern = hornPattern (s.stand i).ctx.state true) ∧
      ((s.stand i).ctx.prewarn = true → o = (s.stand i).out) := by
  unfold risePrewarn
  by_cases h : (s.stand i).ctx.prewarn = true
  · refine ⟨(s.stand i).out, ?_, rfl, by simp [h], fun _ => rfl⟩
    simp only [h, if_true, latched, List.foldl_nil]
    rw [← h]
  · have h0 : (s.stand i).ctx.prewarn = false := by simpa using h
    rw [if_neg h]
    refine ⟨(((s.setPrewarn i true).raise i .prewarn).stand i).out, ?_, ?_, ?_, fun h' => absurd h' h⟩
    · rw [h0]
      simp only [stand_raise_eq, if_true, stand_setPrewarn]
      rfl
    · simp only [stand_raise_eq, if_true, stand_setPrewarn]
    · intro _
      simp only [stand_raise_eq, if_true, stand_setPrewarn]
      exact pattern_chosenHorn _ _

/-- Entry to RUNUP from WATCH, said once (R67), no drive order of an earlier splice being pending. -/
theorem enterRunUp_spec (s : State) (i : StandNo) (r : ReelRecord) (h : (s.stand i).queue.head? = some r)
    (hd : ∀ d ∈ s.port.waitingDrives, d.stand ≠ i) :
    RunUpEntered i r (s.stand i).ctx.early s (s.enterRunUp i) := by
  have he : s.enterRunUp i = (((((s.enterState i .runUp).modCtx i freshFigures).fixFresh i).resetLoop
    i).risePrewarn i).raise i .runUpStart := rfl
  have ho := enterRunUp_own s i
  rw [he] at ho ⊢
  generalize hx : (((s.enterState i .runUp).modCtx i freshFigures).fixFresh i).resetLoop i = x
  rw [hx] at ho
  have hport : (((s.enterState i .runUp).modCtx i freshFigures).fixFresh i).port = s.port := by
    unfold fixFresh
    split <;> simp
  rw [resetLoop_free _ i (by rw [hport]; exact hd)] at hx
  have hf : State.freshChoice ((s.enterState i .runUp).modCtx i freshFigures) i r = s.freshChoice i r := by
    have hg : (s.enterState i .runUp).grades = s.grades := (enterState_own s i .runUp).grades
    unfold freshChoice
    simp [grade, hg, stand_enterState]
    rfl
  have hxs : ∃ o : Horn, x.stand i = { s.stand i with
      ctx := { (s.stand i).ctx with
        state := .runUp
        excursion := false
        vFire := 0
        dRunFire := 0
        eFire := 0
        joint := 0
        tailLong := false
        tailShort := false }
      dFresh := (s.freshChoice i r).1
      source := (s.freshChoice i r).2
      loop := ⟨.running, .acquire, 0, 0, 0, false, false, 0⟩
      out := { (s.stand i).out with horn := o } } ∧ o.pattern = hornPattern .runUp (s.stand i).ctx.prewarn := by
    subst hx
    rw [(killReferences_txOnly _ i).stand i, stand_modLoop, if_pos rfl]
    rw [stand_fixFresh _ i i r (by simp [stand_enterState, h]), if_pos rfl, hf]
    simp only [stand_modCtx, if_true, stand_enterState]
    exact ⟨_, rfl, pattern_chosenHorn _ _⟩
  have hxl : x.log = s.log ∧ x.nextSeq = s.nextSeq := by
    subst hx
    have : ∀ y : State, (y.fixFresh i).log = y.log ∧ (y.fixFresh i).nextSeq = y.nextSeq := by
      intro y
      unfold fixFresh
      split <;> exact ⟨rfl, rfl⟩
    refine ⟨?_, ?_⟩
    · rw [(killReferences_txOnly _ i).log, log_modLoop, (this _).1]
      simp
    · rw [(killReferences_txOnly _ i).nextSeq, nextSeq_modLoop, (this _).2]
      simp
  have hrise : (x.risePrewarn i).log = x.log ∧ (x.risePrewarn i).nextSeq = x.nextSeq := by
    unfold risePrewarn
    split <;> simp
  obtain ⟨o, hxs, hop⟩ := hxs
  obtain ⟨p, hp1, hp2, hp3, hp4⟩ := risePrewarn_stand x i
  have hfinal : ((x.risePrewarn i).raise i .runUpStart).stand i = { (x.risePrewarn i).stand i with
      events := withEvent ((x.risePrewarn i).stand i).events .runUpStart } := by
    rw [stand_raise_eq, if_pos rfl]
  rw [hp1, hxs] at hfinal
  rw [hxs] at hp2 hp3 hp4
  have hpat : p.horn.pattern = .prewarn := by
    cases hb : (s.stand i).ctx.prewarn with
    | false => exact hp3 hb
    | true =>
      rw [hp4 hb]
      dsimp only
      rw [hop, hb]
      rfl
  exact {
    others := ho.toKeepsOthers
    clock := ho.clock
    log := ⟨by rw [log_raise_eq, hrise.1, hxl.1], by rw [nextSeq_raise_eq, hrise.2, hxl.2]⟩
    stand := by
      rw [hfinal, hp2]
      cases hb : (s.stand i).ctx.prewarn <;> simp [latched]
    horn := by
      rw [hfinal]
      exact hpat }

end State

end Machine

end Sys2Proof
end

