-- ==== Sys2Proof/Laws/Settle.lean ====
section
/-! SUPPORT. What settling comes to, for one stand after a change of it, and what RESTART leaves of each block. -/

namespace Sys2Proof

namespace Machine

namespace State

/-! ### Settling (R61) -/

theorem restState_eq (s : State) (i : StandNo) : s.restState i = restingFor s.mode (s.stand i) := by
  unfold restState restingFor headReady head
  dsimp only
  cases he : (s.stand i).record.enabled <;> cases ha : (s.stand i).ctx.auto <;> cases hr : (s.stand i).running <;>
    cases hq : (s.stand i).queue <;> cases hm : s.mode <;> simp

@[simp] theorem log_enterRest (s : State) (i : StandNo) : (s.enterRest i).log = s.log := by simp [enterRest]

@[simp] theorem nextSeq_enterRest (s : State) (i : StandNo) : (s.enterRest i).nextSeq = s.nextSeq := by simp [enterRest]

@[simp] theorem port_enterRest (s : State) (i : StandNo) : (s.enterRest i).port = s.port := by simp [enterRest]

@[simp] theorem clock_enterRest (s : State) (i : StandNo) : (s.enterRest i).clock = s.clock := by simp [enterRest]

/-- Entry to a resting state changes the context and the horn of its stand alone. -/
theorem stand_enterRest (s : State) (i j : StandNo) :
    ∃ h : Horn, (s.enterRest i).stand j =
      if i = j then { s.stand i with
        ctx := { (s.stand i).ctx with
          state := restingFor s.mode (s.stand i)
          early := false
          cause := none
          prewarn := false }
        out := { (s.stand i).out with horn := h } }
      else s.stand j := by
  unfold enterRest
  by_cases h : i = j
  · subst h
    simp only [stand_chooseHorn, if_true, stand_modCtx, restState_eq]
    exact ⟨_, rfl⟩
  · exact ⟨Horn.start, by simp [stand_chooseHorn, h]⟩

/-- Settling changes the context and the horn of its stand alone, by R61. -/
theorem stand_settle (s : State) (i j : StandNo) :
    ∃ h : Horn, (s.settle i).stand j =
      if i = j then { s.stand i with
        ctx := settledCtx s.mode (s.stand i)
        out := { (s.stand i).out with horn := h } }
      else s.stand j := by
  unfold settle settledCtx
  rw [restState_eq]
  by_cases h : (s.stand i).ctx.state.resting = true ∧ ¬ restingFor s.mode (s.stand i) = (s.stand i).ctx.state
  · obtain ⟨o, ho⟩ := stand_enterRest s i j
    refine ⟨o, ?_⟩
    simp only [h, Bool.true_and, Bool.not_eq_true', beq_eq_false_iff_ne, ne_eq, not_false_eq_true, if_true, ho]
    simp
  · have h' : (s.stand i).ctx.state.resting = false ∨ restingFor s.mode (s.stand i) = (s.stand i).ctx.state := by
      cases hr : (s.stand i).ctx.state.resting <;> simp_all
    refine ⟨(s.stand i).out.horn, ?_⟩
    rw [if_neg (by simpa using h), if_pos h']
    split
    · rename_i e
      rw [e]
    · rfl

@[simp] theorem log_settle (s : State) (i : StandNo) : (s.settle i).log = s.log := by
  unfold settle
  split <;> simp

@[simp] theorem nextSeq_settle (s : State) (i : StandNo) : (s.settle i).nextSeq = s.nextSeq := by
  unfold settle
  split <;> simp

@[simp] theorem port_settle (s : State) (i : StandNo) : (s.settle i).port = s.port := by
  unfold settle
  split <;> simp

/-- A change of one stand and the settling of its context, said once. -/
theorem settled_modStand (s : State) (i : StandNo) (f : Stand → Stand) :
    SettledAs i (f (s.stand i)) s ((s.modStand i f).settle i) := by
  have ho := (modStand_own s i f).trans (settle_own _ i)
  obtain ⟨h, hs⟩ := stand_settle (s.modStand i f) i i
  exact {
    others := ho.toKeepsOthers
    clock := ho.clock
    log := by simp
    port := by simp
    stand := by
      rw [hs]
      simp }

/-! ### RESTART (R171, R156, R134) -/

/-- Marking each of these notices unacknowledged in turn marks every record that one of them names. -/
theorem markAll_eq (ns : List Notice) (s : State) :
    ns.foldl (fun s n => s.markUnacked n.seq) s =
      { s with log := s.log.map fun r =>
          if ns.any (fun n => n.seq == r.seq) then { r with noticeUnacked := true } else r } := by
  induction ns generalizing s with
  | nil => simp
  | cons n ns ih =>
    rw [List.foldl_cons, ih]
    unfold markUnacked
    simp only [List.map_map]
    congr 1
    apply List.map_congr_left
    intro r _
    simp only [Function.comp, List.any_cons]
    by_cases h : r.seq = n.seq
    · rw [if_pos h]
      have : (n.seq == r.seq) = true := by simp [h]
      simp [this]
    · have : (n.seq == r.seq) = false := by simpa using fun e : n.seq = r.seq => h e.symm
      simp [this, h]

theorem restarted_rest (s : State) : s.restarted =
    { s with
      log := s.log.map fun r =>
        if (noticesOf s.port.tx ++ s.port.waitingNotices).any (fun n => n.seq == r.seq) then { r with noticeUnacked := true }
        else r
      scanNext := 0
      stands := s.restarted.stands
      trackers := s.restarted.trackers
      port := s.port.restart } := by
  unfold restarted
  simp only [markAll_eq]
  rw [mapTrackers_rest, mapStands_rest]
  rfl

theorem restarted_tracker (s : State) (k : SlotNo) : s.restarted.tracker k = Tracker.start := by
  unfold restarted
  dsimp only
  rw [tracker_modPort, mapTrackers_tracker]

theorem restarted_stand (s : State) (i : StandNo) : s.restarted.stand i = (s.stand i).restart := by
  unfold restarted
  simp only [markAll_eq]
  rw [stand_modPort, mapTrackers_rest]
  have h : ∀ (y : State) z, ({ y with trackers := z } : State).stand i = y.stand i := fun _ _ => rfl
  rw [h, mapStands_stand]
  rfl

end State

end Machine

end Sys2Proof
end

