-- ==== Sys2Proof/Laws/Sweep.lean ====
section
/-! SUPPORT. What an action applied to each of the six stands in some order comes to, when it touches only its own stand. -/

namespace Sys2Proof

namespace Machine

theorem nodup_eraseDups {α : Type} [DecidableEq α] (n : Nat) : ∀ l : List α, l.length ≤ n → l.eraseDups.Nodup := by
  induction n with
  | zero =>
    intro l hl
    have : l = [] := List.length_eq_zero_iff.1 (by omega)
    subst this
    simp
  | succ n ih =>
    intro l hl
    cases l with
    | nil => simp
    | cons a l =>
      rw [List.eraseDups_cons, List.nodup_cons]
      have hle := List.length_filter_le (fun b => !b == a) l
      refine ⟨?_, ih _ (by simp at hl; omega)⟩
      rw [List.mem_eraseDups]
      simp

theorem wholeOrder_nodup {α : Type} [DecidableEq α] {all : List α} (h : all.Nodup) (o : List α) :
    (wholeOrder all o).Nodup := by
  unfold wholeOrder
  rw [List.nodup_append]
  refine ⟨nodup_eraseDups _ _ (Nat.le_refl _), h.filter _, ?_⟩
  intro a ha b hb hab
  subst hab
  rw [List.mem_eraseDups, List.mem_filter] at ha
  simp [ha.1] at hb

theorem mem_wholeOrder {α : Type} [DecidableEq α] {all : List α} (o : List α) (a : α) :
    a ∈ wholeOrder all o ↔ a ∈ all := by
  unfold wholeOrder
  by_cases h : a ∈ o <;> simp [h]

namespace State

/-- What a sweep over the stands keeps. -/
structure Swept (s t : State) : Prop where
  trackers : t.trackers = s.trackers
  grades : t.grades = s.grades
  line : t.line = s.line
  mode : t.mode = s.mode
  scanNext : t.scanNext = s.scanNext
  pending : t.pending = s.pending
  port : t.port = { s.port with
    tx := t.port.tx
    handlerSlot := t.port.handlerSlot
    waitingDrives := t.port.waitingDrives
    waitingNotices := t.port.waitingNotices
    owedReports := t.port.owedReports }
  clock : t.clock = s.clock

theorem Swept.refl (s : State) : Swept s s := ⟨rfl, rfl, rfl, rfl, rfl, rfl, rfl, rfl⟩

theorem Swept.trans {s t u : State} (h : Swept s t) (k : Swept t u) : Swept s u where
  trackers := k.trackers.trans h.trackers
  grades := k.grades.trans h.grades
  line := k.line.trans h.line
  mode := k.mode.trans h.mode
  scanNext := k.scanNext.trans h.scanNext
  pending := k.pending.trans h.pending
  port := by rw [k.port, h.port]
  clock := k.clock.trans h.clock

theorem OwnChange.swept {i : StandNo} {s t : State} (h : OwnChange i s t) : Swept s t :=
  ⟨h.trackers, h.grades, h.line, h.mode, h.scanNext, h.pending, h.port, h.clock⟩

theorem foldOwn (f : StandNo → State → State) (hf : ∀ i s, OwnChange i s (f i s)) (P : StandNo → Stand → Stand → Prop)
    (s : State) (hP : ∀ i x, Swept s x → P i (x.stand i) ((f i x).stand i)) :
    ∀ (l : List StandNo), l.Nodup → ∀ x, Swept s x →
      Swept s (l.foldl (fun y i => f i y) x) ∧
        (∀ i, i ∉ l → (l.foldl (fun y i => f i y) x).stand i = x.stand i) ∧
        ∀ i, i ∈ l → P i (x.stand i) ((l.foldl (fun y i => f i y) x).stand i) := by
  intro l
  induction l with
  | nil => exact fun _ x hx => ⟨hx, fun _ _ => rfl, fun i hi => by simp at hi⟩
  | cons a l ih =>
    intro hl x hx
    rw [List.nodup_cons] at hl
    obtain ⟨h1, h2, h3⟩ := ih hl.2 (f a x) (hx.trans (hf a x).swept)
    refine ⟨h1, fun i hi => ?_, fun i hi => ?_⟩
    · have hia : i ≠ a ∧ i ∉ l := by simpa using hi
      exact (h2 i hia.2).trans ((hf a x).stands i hia.1)
    · by_cases hia : i = a
      · subst hia
        show P i _ ((l.foldl (fun y i => f i y) (f i x)).stand i)
        rw [h2 i hl.1]
        exact hP i x hx
      · have hil : i ∈ l := by simpa [hia] using hi
        have := h3 i hil
        rwa [(hf a x).stands i hia] at this

/-- An action that touches only its own stand, applied to each of the six stands in any order, does to each stand what it
does alone. -/
theorem forStands_own (o : List StandNo) (f : StandNo → State → State) (hf : ∀ i s, OwnChange i s (f i s))
    (P : StandNo → Stand → Stand → Prop) (s : State) (hP : ∀ i x, Swept s x → P i (x.stand i) ((f i x).stand i)) :
    Swept s (forStands o f s) ∧ ∀ i, P i (s.stand i) ((forStands o f s).stand i) := by
  obtain ⟨h1, -, h3⟩ := foldOwn f hf P s hP _ (wholeOrder_nodup allStands_nodup o) s (.refl s)
  exact ⟨h1, fun i => h3 i ((mem_wholeOrder o i).2 (mem_allStands i))⟩

/-- What every action of a sweep keeps, the sweep keeps. -/
theorem forStands_keeps (o : List StandNo) (f : StandNo → State → State) (P : State → Prop)
    (h : ∀ i s, P s → P (f i s)) (s : State) (hs : P s) : P (forStands o f s) := by
  unfold forStands
  generalize wholeOrder allStands o = l
  induction l generalizing s with
  | nil => exact hs
  | cons a l ih => exact ih _ (h a s hs)

end State

end Machine

end Sys2Proof
end

