-- ==== Sys2Proof/Laws/Own.lean ====
section
/-! SUPPORT. Every operation of one stand touches its own stand, the log and the transmit side alone. -/

namespace Sys2Proof

namespace Machine

namespace State

/-- What an operation of one stand does after the local clock is set, it does to the state before. -/
theorem OwnChange.afterClock {i : StandNo} {s u : State} {t : Time} (h : OwnChange i (s.setClock t) u) :
    KeepsOthers i s u := ⟨h.stands, h.trackers, h.grades, h.line, h.mode, h.scanNext, h.pending, h.port⟩

/-- Two changes of one stand are one change. -/
theorem modStand_modStand (s : State) (i : StandNo) (f g : Stand → Stand) :
    (s.modStand i f).modStand i g = s.modStand i fun x => g (f x) := by
  apply ext_stands
  · intro j
    by_cases h : i = j <;> simp [h]
  all_goals first | rfl | exact fun _ => rfl

/-! ### Line samples and tracker timers -/

theorem updateReference_own (s : State) (i : StandNo) (dt : Nat) : OwnChange i s (s.updateReference i dt) :=
  placeReference_own s i _

theorem predict_own (s : State) (i : StandNo) : OwnChange i s (s.predict i) := by
  unfold predict
  dsimp only
  split
  · exact .refl i s
  · split
    · split
      · exact (risePrewarn_own s i).trans (enterRunUp_own _ i)
      · exact risePrewarn_own s i
    · split
      · exact enterRunUp_own s i
      · exact .refl i s

theorem loopHears_own (s : State) (i : StandNo) (e : SampleEvent) (b : Bool) : OwnChange i s (s.loopHears i e b) := by
  unfold loopHears
  split
  · split
    · exact updateReference_own s i _
    · exact .refl i s
  all_goals exact .refl i s

theorem contextHears_own (s : State) (i : StandNo) (e : SampleEvent) : OwnChange i s (s.contextHears i e) := by
  unfold contextHears
  split
  · split
    · exact predict_own s i
    · split
      · exact abortBeforeFire_own s i _
      · exact .refl i s
  · exact leaveFireSet_own s i
  all_goals exact .refl i s

theorem hearMatter_own (x : State) (p : List Byte) (m : Matter) (s : State) :
    OwnChange m.stand s (hearMatter x p m s) := by
  unfold hearMatter
  dsimp only
  split
  · exact loopHears_own s _ _ _
  · exact contextHears_own s _ _

/-! ### Reel sensing -/

theorem setChannel_own (s : State) (i : StandNo) (ch : Channel) (c : PulseChannel) : OwnChange i s (s.setChannel i ch c) :=
  modStand_own s i _

theorem raiseEnabled_own (s : State) (i : StandNo) (k : EventKind) : OwnChange i s (s.raiseEnabled i k) := by
  unfold raiseEnabled
  split
  · exact raise_own s i k
  · exact .refl i s

theorem updateChannel_own (s : State) (i : StandNo) (ch : Channel) (c : PulseChannel) :
    OwnChange i s (s.updateChannel i ch c) := by
  unfold updateChannel
  dsimp only
  split
  · exact (setChannel_own s i ch c).trans ((raiseEnabled_own _ i _).trans (abortBeforeFire_own _ i _))
  · exact setChannel_own s i ch c

theorem inputChanges_own (s : State) (i : StandNo) (ch : Channel) (b : Bool) : OwnChange i s (s.inputChanges i ch b) := by
  unfold inputChanges
  dsimp only
  split
  · exact .refl i s
  · split
    · exact setChannel_own s i ch _
    · exact (setChannel_own s i ch _).trans ((raiseEnabled_own _ i _).trans (updateChannel_own _ i ch _))

theorem measureRunning_own (s : State) (i : StandNo) (p : Nat) : OwnChange i s (s.measureRunning i p) := by
  unfold measureRunning
  dsimp only
  split
  · split <;> exact modStand_own s i _
  · exact modStand_own s i _

theorem runPeriod_own (s : State) (i : StandNo) (p : Nat) : OwnChange i s (s.runPeriod i p) := by
  unfold runPeriod
  dsimp only
  split
  · exact (measureRunning_own s i p).trans ((runoutCheck_own _ i).trans (enterFireWait_own _ i))
  · exact (measureRunning_own s i p).trans (runoutCheck_own _ i)

theorem measureFresh_own (s : State) (i : StandNo) (p : Nat) : OwnChange i s (s.measureFresh i p) := by
  unfold measureFresh
  exact modStand_own s i _

theorem unlock_own (s : State) (i : StandNo) : OwnChange i s (s.unlock i) := by
  unfold unlock
  dsimp only
  split
  · exact (modLoop_own s i _).trans (lockCleared_own _ i)
  · exact modLoop_own s i _

theorem detectLock_own (s : State) (i : StandNo) (e : Int) : OwnChange i s (s.detectLock i e) := by
  unfold detectLock
  dsimp only
  split
  · split
    · exact (modLoop_own s i _).trans ((modLoop_own _ i _).trans ((raise_own _ i _).trans (lockSet_own _ i)))
    · exact modLoop_own s i _
  · exact modLoop_own s i _

theorem loopTab_own (s : State) (i : StandNo) : OwnChange i s (s.loopTab i) := by
  unfold loopTab
  dsimp only
  split
  · split
    · exact (modLoop_own s i _).trans (unlock_own _ i)
    · exact (modLoop_own s i _).trans (detectLock_own _ i _)
  · exact .refl i s

theorem armPaster_own (s : State) (i : StandNo) (p : Nat) : OwnChange i s (s.armPaster i p) := by
  unfold armPaster
  exact modOut_own s i _

theorem contextTab_own (s : State) (i : StandNo) (p : Nat) : OwnChange i s (s.contextTab i p) := by
  unfold contextTab
  split
  · dsimp only
    split
    · exact (modCtx_own s i _).trans ((armPaster_own _ i p).trans (enterState_own _ i _))
    · exact modCtx_own s i _
  · exact (modCtx_own s i _).trans (armPaster_own _ i p)
  · exact .refl i s

theorem freshPeriod_own (s : State) (i : StandNo) (p : Nat) (b : Bool) : OwnChange i s (s.freshPeriod i p b) := by
  unfold freshPeriod
  dsimp only
  split
  · exact (measureFresh_own s i p).trans ((loopTab_own _ i).trans (contextTab_own _ i p))
  · exact (measureFresh_own s i p).trans ((contextTab_own _ i p).trans (loopTab_own _ i))

theorem handOn_own (s : State) (i : StandNo) (ch : Channel) (p : Nat) (b : Bool) : OwnChange i s (s.handOn i ch p b) := by
  unfold handOn
  split
  · cases ch
    · exact runPeriod_own s i p
    · exact freshPeriod_own s i p b
  · exact .refl i s

theorem changeHolds_own (s : State) (i : StandNo) (ch : Channel) (b : Bool) : OwnChange i s (s.changeHolds i ch b) := by
  unfold changeHolds
  dsimp only
  split
  · exact .refl i s
  · split
    · split
      · split
        · exact (updateChannel_own s i ch _).trans (handOn_own _ i ch _ b)
        · exact updateChannel_own s i ch _
      · exact setChannel_own s i ch _
    · exact .refl i s

theorem freshStopped_own (s : State) (i : StandNo) : OwnChange i s (s.freshStopped i) := by
  unfold freshStopped
  split
  · exact abort_own s i _
  · exact abort_own s i _
  · exact (modCtx_own s i _).trans (enterRest_own _ i)
  · exact .refl i s

theorem channelStops_own (s : State) (i : StandNo) (ch : Channel) : OwnChange i s (s.channelStops i ch) := by
  unfold channelStops
  dsimp only
  split
  · cases ch
    · exact setChannel_own s i _ _
    · exact (setChannel_own s i _ _).trans ((modStand_own _ i _).trans (freshStopped_own _ i))
  · exact .refl i s

theorem announceExcursion_own (s : State) (i : StandNo) : OwnChange i s (s.announceExcursion i) := by
  unfold announceExcursion
  split
  all_goals first
    | exact abort_own s i _
    | exact modCtx_own s i _
    | exact .refl i s

theorem convertSensor_own (s : State) (i : StandNo) (code : BitVec 12) : OwnChange i s (s.convertSensor i code) :=
  modStand_own s i _

theorem convertDancer_own (s : State) (i : StandNo) (code : BitVec 12) : OwnChange i s (s.convertDancer i code) := by
  unfold convertDancer
  dsimp only
  generalize (if insideBand (s.stand i).record code = true then 0
    else capNat 3 ((s.stand i).dancer.excursionRun + 1)) = n
  split
  · exact (modStand_own s i _).trans (announceExcursion_own _ i)
  · exact modStand_own s i _

/-! ### The timers of a splice -/

theorem setKnife_own (s : State) (i : StandNo) : OwnChange i s (s.setKnife i) := by
  unfold setKnife
  dsimp only
  split
  · exact (modOut_own s i _).trans ((modCtx_own _ i _).trans (raise_own _ i _))
  · split
    · exact (modOut_own s i _).trans ((modCtx_own _ i _).trans (raise_own _ i _))
    · exact (modOut_own s i _).trans (modCtx_own _ i _)

theorem assertPaste_own (s : State) (i : StandNo) : OwnChange i s (s.assertPaste i) := by
  unfold assertPaste
  exact modOut_own s i _

theorem takeFigures_own (s : State) (i : StandNo) : OwnChange i s (s.takeFigures i) := by
  unfold takeFigures
  exact modCtx_own s i _

theorem firePaster_own (s : State) (i : StandNo) : OwnChange i s (s.firePaster i) := by
  unfold firePaster
  exact (enterState_own s i _).trans <| (assertPaste_own _ i).trans <| (takeFigures_own _ i).trans <|
    (setKnife_own _ i).trans <| (modCtx_own _ i _).trans <| (modLoop_own _ i _).trans <|
    (setPrewarn_own _ i _).trans (raise_own _ i _)

theorem pasterEnds_own (s : State) (i : StandNo) : OwnChange i s (s.pasterEnds i) := by
  unfold pasterEnds
  dsimp only
  split
  · split
    · exact (modOut_own s i _).trans (firePaster_own _ i)
    · exact modOut_own s i _
  · exact .refl i s

theorem assertKnife_own (s : State) (i : StandNo) : OwnChange i s (s.assertKnife i) := by
  unfold assertKnife
  dsimp only
  split
  · exact .refl i s
  · exact modOut_own s i _

theorem startBrake_own (s : State) (i : StandNo) : OwnChange i s (s.startBrake i) := by
  unfold startBrake
  exact modOut_own s i _

theorem fireKnife_own (s : State) (i : StandNo) : OwnChange i s (s.fireKnife i) := by
  unfold fireKnife
  exact (enterState_own s i _).trans <| (assertKnife_own _ i).trans <| (startBrake_own _ i).trans <|
    (modCtx_own _ i _).trans ((queueDrive_txOnly _ i _).own i)

theorem knifeEnds_own (s : State) (i : StandNo) : OwnChange i s (s.knifeEnds i) := by
  unfold knifeEnds
  dsimp only
  split
  · split
    · exact (modOut_own s i _).trans (fireKnife_own _ i)
    · exact modOut_own s i _
  · exact .refl i s

theorem endSpliced_own (s : State) (i : StandNo) : OwnChange i s (s.endSpliced i) :=
  (writeOutcome_own s i _).trans <| (raise_own _ i _).trans <| (swap_own _ i).trans (endSplice_own _ i)

theorem endBroken_own (s : State) (i : StandNo) : OwnChange i s (s.endBroken i) :=
  (writeOutcome_own s i _).trans <| (raise_own _ i _).trans <| (breakWeb_own _ i).trans <|
    (modCtx_own _ i _).trans (endSplice_own _ i)

theorem confirmEnds_own (s : State) (i : StandNo) : OwnChange i s (s.confirmEnds i) := by
  unfold confirmEnds
  dsimp only
  split
  · split
    · split
      · exact (modCtx_own s i _).trans (endBroken_own _ i)
      · exact (modCtx_own s i _).trans (endSpliced_own _ i)
    · exact modCtx_own s i _
  · exact .refl i s

theorem missingTabEnds_own (s : State) (i : StandNo) : OwnChange i s (s.missingTabEnds i) := by
  unfold missingTabEnds
  dsimp only
  split
  · split
    · exact (modCtx_own s i _).trans (abort_own _ i _)
    · exact modCtx_own s i _
  · exact .refl i s

theorem stoppingEnds_own (s : State) (i : StandNo) : OwnChange i s (s.stoppingEnds i) := by
  unfold stoppingEnds
  dsimp only
  split
  · split
    · exact (modCtx_own s i _).trans (enterRest_own _ i)
    · exact modCtx_own s i _
  · exact .refl i s

/-! ### The guard, the locks and the outcomes of drive orders -/

theorem announceLatch_own (s : State) (i : StandNo) : OwnChange i s (s.announceLatch i) := by
  unfold announceLatch
  split
  · exact abort_own s i _
  · exact abort_own s i _
  · exact abort_own s i _
  · exact abort_own s i _
  · exact failInterlock_own s i
  all_goals exact .refl i s

theorem guardOpens_own (s : State) (i : StandNo) : OwnChange i s (s.guardOpens i) := by
  unfold guardOpens
  dsimp only
  split
  · exact .refl i s
  · split
    · exact modOut_own s i _
    · exact ((modOut_own s i _).trans (forceOff_own (s.modOut i _) i)).trans
        ((raise_own _ i _).trans (announceLatch_own _ i))

theorem lockEnds_own (s : State) (i : StandNo) : OwnChange i s (s.lockEnds i) := modStand_own s i _

theorem referenceOutcome_own (s : State) (i : StandNo) (r : TxOutcome) : OwnChange i s (s.referenceOutcome i r) := by
  have h : ∀ x : State, OwnChange i s x → OwnChange i s (if (s.stand i).loop.noAckRun = 2 then
      (x.raise i .driveFault).abortBeforeFire i .driveFault else x) := by
    intro x hx
    split
    · exact hx.trans ((raise_own x i _).trans (abortBeforeFire_own _ i _))
    · exact hx
  cases r
  · unfold referenceOutcome
    exact modLoop_own s i _
  · exact h _ (modLoop_own s i _)
  · exact h _ (modLoop_own s i _)

theorem driveOutcome_own (s : State) (i : StandNo) (r : TxOutcome) : OwnChange i s (s.driveOutcome i r) := by
  cases r
  · exact .refl i s
  · exact raise_own s i _
  · exact raise_own s i _

/-- The trackers after a line sample, and what a line sample leaves alone (R28, R35). -/
theorem takeSample_swept (s : State) (p : List Byte) (o : List Matter) :
    Swept { s with trackers := (s.mapTrackers fun k _ => (s.sampleSlot p k).1).trackers } (s.takeSample p o) := by
  unfold takeSample
  dsimp only
  rw [← mapTrackers_rest s fun k _ => (s.sampleSlot p k).1]
  generalize (s.mapTrackers fun k _ => (s.sampleSlot p k).1) = x
  generalize wholeOrder allMatters o = l
  suffices h : ∀ y, Swept x y → Swept x (l.foldl (fun s' m => hearMatter s p m s') y) from h x (.refl x)
  induction l with
  | nil => exact fun _ h => h
  | cons m l ih => exact fun y h => ih _ (h.trans (hearMatter_own s p m y).swept)

end State

end Machine

end Sys2Proof
end

