-- ==== Sys2Proof/Laws/Marks.lean ====
section
/-! SUPPORT. What a fault mark, a period and the lock of the loop do to a splice: one lemma for each of the operations of R46, R51 and R69 to R72. -/

namespace Sys2Proof

namespace Machine

namespace State

/-- An abort that follows a move of the context's state, with the horn, and the raising of events is an abort with those
events raised at it. -/
theorem AbortedBy.after {i : StandNo} {c : AbortCause} {ks : List EventKind} {s t u : State} (h : AbortedBy i c [] t u)
    {q : CtxState} {horn : Horn} (own : OwnChange i s t) (stand : t.stand i = { s.stand i with
      ctx := { (s.stand i).ctx with state := q }
      out := { (s.stand i).out with horn := horn }
      events := latched (s.stand i).events ks })
    (log : t.log = s.log) (nextSeq : t.nextSeq = s.nextSeq) : AbortedBy i c ks s u where
  others := (own.trans ⟨h.others, h.clock⟩).toKeepsOthers
  clock := h.clock.trans own.clock
  stand := by
    rw [h.stand, stand, own.clock]
    simp [latched]
  horn := h.horn
  log := by
    rw [h.log]
    simp [abortRecord, reelIds, stand, log, nextSeq, own.clock]
  nextSeq := by rw [h.nextSeq, nextSeq]
  release := h.release
  withdrawn := h.withdrawn

/-! ### Pulse channels -/

@[simp] theorem channel_setChannel (x : Stand) (ch : Channel) (c : PulseChannel) : (x.setChannel ch c).channel ch = c := by
  cases ch <;> rfl

@[simp] theorem setChannel_setChannel (x : Stand) (ch : Channel) (c d : PulseChannel) :
    (x.setChannel ch c).setChannel ch d = x.setChannel ch d := by cases ch <;> rfl

@[simp] theorem record_setChannel (x : Stand) (ch : Channel) (c : PulseChannel) : (x.setChannel ch c).record = x.record := by
  cases ch <;> rfl

@[simp] theorem ctx_setChannel (x : Stand) (ch : Channel) (c : PulseChannel) : (x.setChannel ch c).ctx = x.ctx := by
  cases ch <;> rfl

@[simp] theorem events_setChannel (x : Stand) (ch : Channel) (c : PulseChannel) :
    (x.setChannel ch c).events = x.events := by cases ch <;> rfl

/-- The events that the raising of `k` on a stand latches: none on a stand that is not enabled (R48). -/
theorem stand_raiseEnabled (s : State) (i : StandNo) (k : EventKind) :
    (s.raiseEnabled i k).stand i = { s.stand i with
      events := latched (s.stand i).events (if (s.stand i).record.enabled then [k] else []) } := by
  unfold raiseEnabled
  split <;> simp [latched]

@[simp] theorem log_raiseEnabled (s : State) (i : StandNo) (k : EventKind) : (s.raiseEnabled i k).log = s.log := by
  unfold raiseEnabled
  split <;> simp

@[simp] theorem nextSeq_raiseEnabled (s : State) (i : StandNo) (k : EventKind) :
    (s.raiseEnabled i k).nextSeq = s.nextSeq := by
  unfold raiseEnabled
  split <;> simp

/-- A channel whose fault mark does not rise changes alone (R46). -/
theorem updateChannel_quiet (s : State) (i : StandNo) (ch : Channel) (c : PulseChannel)
    (h : c.fault = false ∨ ((s.stand i).channel ch).fault = true) : s.updateChannel i ch c = s.setChannel i ch c := by
  unfold updateChannel
  rcases h with h | h <;> simp [h]

/-- What a rise of a fault mark does, said once: SENSOR_FAULT on an enabled stand, and a splice before fire is aborted
(R46, R83). -/
theorem updateChannel_rise (s : State) (i : StandNo) (ch : Channel) (c : PulseChannel) (h : c.fault = true)
    (h0 : ((s.stand i).channel ch).fault = false) :
    let ks : List EventKind := if (s.stand i).record.enabled then [.sensorFault] else []
    ((s.stand i).ctx.state.beforeFire = true →
      AbortedBy i .sensorFault ks (s.setChannel i ch c) (s.updateChannel i ch c)) ∧
    ((s.stand i).ctx.state.beforeFire = false → (s.updateChannel i ch c).log = s.log ∧
      (s.updateChannel i ch c).stand i = { (s.stand i).setChannel ch c with
        events := latched (s.stand i).events ks }) := by
  intro ks
  have hy : (s.setChannel i ch c).stand i = (s.stand i).setChannel ch c := by simp [State.setChannel]
  have hc : ((s.setChannel i ch c).raiseEnabled i .sensorFault).stand i =
      { (s.stand i).setChannel ch c with events := latched (s.stand i).events ks } := by
    rw [stand_raiseEnabled, hy]
    simp only [record_setChannel, events_setChannel, ks]
  unfold updateChannel abortBeforeFire
  dsimp only
  rw [h, h0, hc]
  simp only [Bool.not_false, Bool.and_true, if_true, ctx_setChannel]
  constructor
  · intro hb
    rw [if_pos hb]
    exact (abort_spec _ i .sensorFault).after (raiseEnabled_own _ i _) (by rw [hc, hy, events_setChannel]) (by simp) (by simp)
  · intro hb
    rw [if_neg (by simp [hb])]
    exact ⟨by simp [State.setChannel], hc.trans (by simp)⟩

/-! ### FIRE_WAIT and MATCHED -/

/-- The entry to FIRE_WAIT, said once: the missing-tab timer is armed with three FRESH periods, or with no period held the
splice aborts with NO_TAB (R72). -/
theorem enterFireWait_spec (s : State) (i : StandNo) :
    (∀ q, (s.stand i).freshCh.lastPeriod = some q → (s.enterFireWait i).log = s.log ∧
      (s.enterFireWait i).stand i = { s.stand i with
        ctx := { (s.stand i).ctx with state := .fireWait, missingTabAt := some (s.clock + BitVec.ofNat 32 (3 * q)) }
        out := { (s.stand i).out with horn := ((s.enterFireWait i).stand i).out.horn } }) ∧
    ((s.stand i).freshCh.lastPeriod = none → AbortedBy i .noTab [] s (s.enterFireWait i)) := by
  have hs := stand_enterState s i i .fireWait
  rw [if_pos rfl] at hs
  have hf : ((s.enterState i .fireWait).stand i).freshCh = (s.stand i).freshCh := by rw [hs]
  constructor
  · intro q hq
    unfold enterFireWait
    dsimp only
    rw [hf, hq]
    refine ⟨by simp, ?_⟩
    simp only [stand_modCtx, if_true, clock_enterState]
    rw [hs]
    rfl
  · intro hq
    unfold enterFireWait
    dsimp only
    rw [hf, hq]
    exact (abort_spec _ i .noTab).after (enterState_own s i _) (by rw [hs]; rfl) (by simp) (by simp)

/-- LOCKED set, said once: it takes RUNUP to MATCHED, whose three checks are made at once, and no other context anywhere
(R69). -/
theorem lockSet_spec (s : State) (i : StandNo) :
    let fires : Prop := (s.stand i).ctx.early = true ∨ (s.stand i).dRun ≤ (s.runningGrade i).spliceDiameter
    ((s.stand i).ctx.state ≠ .runUp → s.lockSet i = s) ∧
    ((s.stand i).ctx.state = .runUp →
      ((s.stand i).dancer.excursionRun = 3 → AbortedBy i .tension [] s (s.lockSet i)) ∧
      ((s.stand i).dancer.excursionRun ≠ 3 → ¬ fires → (s.lockSet i).log = s.log ∧
        (s.lockSet i).stand i = { s.stand i with
          ctx := { (s.stand i).ctx with state := .matched }
          out := { (s.stand i).out with horn := ((s.lockSet i).stand i).out.horn } }) ∧
      ((s.stand i).dancer.excursionRun ≠ 3 → fires →
        (∀ q, (s.stand i).freshCh.lastPeriod = some q → (s.lockSet i).log = s.log ∧
          (s.lockSet i).stand i = { s.stand i with
            ctx := { (s.stand i).ctx with state := .fireWait, missingTabAt := some (s.clock + BitVec.ofNat 32 (3 * q)) }
            out := { (s.stand i).out with horn := ((s.lockSet i).stand i).out.horn } }) ∧
        ((s.stand i).freshCh.lastPeriod = none → AbortedBy i .noTab [] s (s.lockSet i)))) := by
  intro fires
  refine ⟨fun h => by unfold lockSet; rw [if_neg h], fun h => ?_⟩
  have hs := stand_enterState s i i .matched
  rw [if_pos rfl] at hs
  have he : s.lockSet i = if (s.stand i).dancer.excursionRun = 3 then (s.enterState i .matched).abort i .tension
      else if fires then (s.enterState i .matched).enterFireWait i else s.enterState i .matched := by
    unfold lockSet enterMatched atSpliceDiameter
    rw [if_pos h]
    have hg : (s.enterState i .matched).runningGrade i = s.runningGrade i := by
      unfold runningGrade
      rw [hs]
      cases (s.stand i).running <;> simp [grade, (enterState_own s i .matched).grades]
    dsimp only
    rw [hg, hs]
    simp [fires]
  rw [he]
  refine ⟨fun h1 => ?_, fun h1 h2 => ?_, fun h1 h2 => ?_⟩
  · rw [if_pos h1]
    exact (abort_spec _ i .tension).after (enterState_own s i _) (by rw [hs]; rfl) (by simp) (by simp)
  · rw [if_neg h1, if_neg h2]
    exact ⟨by simp, by rw [hs]⟩
  · rw [if_neg h1, if_pos h2]
    obtain ⟨ha, hb⟩ := enterFireWait_spec (s.enterState i .matched) i
    have hf : ((s.enterState i .matched).stand i).freshCh = (s.stand i).freshCh := by rw [hs]
    rw [hf] at ha hb
    refine ⟨fun q hq => ?_, fun hq => ?_⟩
    · obtain ⟨hl, ht⟩ := ha q hq
      refine ⟨by simpa using hl, ?_⟩
      rw [ht, hs]
      simp
    · exact (hb hq).after (enterState_own s i _) (by rw [hs]; rfl) (by simp) (by simp)

/-- LOCKED cleared, said once: it takes MATCHED, FIRE_WAIT and FIRE_SET back to RUNUP with the paster and missing-tab timers
disarmed (R70). -/
theorem lockCleared_spec (s : State) (i : StandNo) :
    let clears : Prop := (s.stand i).ctx.state = .matched ∨ (s.stand i).ctx.state = .fireWait ∨
      (s.stand i).ctx.state = .fireSet
    (¬ clears → s.lockCleared i = s) ∧
    (clears → (s.lockCleared i).log = s.log ∧ (s.lockCleared i).port = s.port ∧
      (s.lockCleared i).stand i = { s.stand i with
        ctx := { (s.stand i).ctx with state := .runUp, missingTabAt := none }
        out := { (s.stand i).out with pasterAt := none, horn := ((s.lockCleared i).stand i).out.horn } }) := by
  intro clears
  constructor
  · intro h
    unfold lockCleared
    cases hc : (s.stand i).ctx.state <;> simp_all [clears]
  · intro h
    have he : s.lockCleared i = ((s.modOut i fun o => { o with pasterAt := none }).modCtx i
        fun x => { x with missingTabAt := none }).enterState i .runUp := by
      unfold lockCleared
      rcases h with h | h | h <;> rw [h]
    rw [he, stand_enterState, if_pos rfl]
    simp

/-! ### The runout check -/

/-- The runout check, said once: with a running reel whose runout has not fired and D_run at or below core plus margin, the
mark is set and RUNOUT latched; a splice before fire is aborted, and WATCH and NO_REEL write a RUNOUT record (R51, R83,
R87). -/
theorem runoutCheck_spec (s : State) (i : StandNo) :
    let runout : Prop := (s.stand i).running ≠ none ∧ (s.stand i).runoutFired = false ∧
      (s.stand i).dRun ≤ (s.runningGrade i).core + (s.runningGrade i).runoutMargin
    let x : State := s.setStand i { s.stand i with runoutFired := true }
    (¬ runout → s.runoutCheck i = s) ∧
    (runout →
      ((s.stand i).ctx.state.beforeFire = true → AbortedBy i .runout [.runout] x (s.runoutCheck i)) ∧
      ((s.stand i).ctx.state.beforeFire = false →
        (s.runoutCheck i).stand i = { s.stand i with
          runoutFired := true, events := withEvent (s.stand i).events .runout } ∧
        ((s.stand i).ctx.state = .watch ∨ (s.stand i).ctx.state = .noReel →
          s.runoutCheck i = (x.raise i .runout).writeOutcome i .runout) ∧
        ((s.stand i).ctx.state ≠ .watch → (s.stand i).ctx.state ≠ .noReel → s.runoutCheck i = x.raise i .runout))) := by
  intro runout x
  have hx : x.stand i = { s.stand i with runoutFired := true } := by simp [x]
  have hr : (x.raise i .runout).stand i = { s.stand i with
      runoutFired := true, events := withEvent (s.stand i).events .runout } := by
    rw [stand_raise_eq, if_pos rfl, hx]
  have hb : ((s.stand i).running.isSome && !(s.stand i).runoutFired &&
      decide ((s.stand i).dRun ≤ (s.runningGrade i).core + (s.runningGrade i).runoutMargin)) = true ↔ runout := by
    simp [runout, Option.isSome_iff_ne_none, and_assoc]
  constructor
  · intro h
    unfold runoutCheck
    dsimp only
    rw [if_neg (fun q => h (hb.1 q))]
  · intro h
    have he : s.runoutCheck i = (x.raise i .runout).announceRunout i := by
      unfold runoutCheck
      dsimp only
      rw [if_pos (hb.2 h)]
      rfl
    rw [he]
    unfold announceRunout
    rw [hr]
    dsimp only
    constructor
    · intro hf
      have hy := (abort_spec (x.raise i .runout) i .runout).after (ks := [.runout]) (raise_own x i .runout)
        (by rw [hr, hx]; rfl) (by simp) (by simp)
      cases hc : (s.stand i).ctx.state <;> simp [hc, CtxState.beforeFire] at hf ⊢
      all_goals exact hy
    · intro hf
      cases hc : (s.stand i).ctx.state <;> simp only [hc, CtxState.beforeFire, Bool.true_eq_false] at hf
      all_goals
        refine ⟨?_, fun h => ?_, fun h1 h2 => ?_⟩
        · exact hr
        · first | rfl | simp at h
        · first | rfl | simp at h1 h2

end State

end Machine

end Sys2Proof
end

