-- ==== Sys2Proof/Laws/Waiting.lean ====
section
/-! SUPPORT. The parties that wait for a slot of the transmit queue: what one freed slot does, what the placing of a notice and the writing of an outcome do, and that a notice once given stays on its way. -/

namespace Sys2Proof

namespace Machine

namespace State

/-! ### The slot arbiter -/

/-- A free slot, counted out (R146). -/
theorem hasFree_iff (x : State) : x.hasFree = true ↔ x.port.tx.length + x.port.handlerSlot.toNat < 12 := by
  unfold hasFree usedSlots Config.txCapacity
  cases x.port.handlerSlot <;> simp

/-- A report of the stand stands in these entries. -/
theorem any_isReport (l : List TxEntry) (i : StandNo) :
    (l.any (TxEntry.isReport i)) = true ↔ ∃ a ∈ l, ∃ c v, a.body = .report i c v := by
  rw [List.any_eq_true]
  constructor
  · rintro ⟨a, ha, h⟩
    unfold TxEntry.isReport at h
    cases hb : a.body with
    | report j c v =>
      rw [hb] at h
      simp at h
      subst h
      exact ⟨a, ha, c, v, hb⟩
    | _ =>
      rw [hb] at h
      simp at h
  · rintro ⟨a, ha, c, v, h⟩
    exact ⟨a, ha, by unfold TxEntry.isReport; rw [h]; simp⟩

/-- What one freed slot does: the five parties in the order of R149. -/
theorem offer_spec (x : State) (hf : x.hasFree = true) :
    let waits (g : Frame) : Prop := x.port.rx.head? = some g ∧ g.target.toNat < 240 ∧
      g.verb ∉ ([0x20, 0x30, 0x31, 0x70] : List Byte) ∧ x.port.handlerSlot = false
    let standing (i : StandNo) : Prop := ∃ a ∈ x.port.tx, ∃ c v, a.body = .report i c v
    (∀ i k rest, x.port.waitingDrives = ⟨i, k⟩ :: rest →
      let body : TxBody := match k with
        | .handover => .handover i (x.stand i).loop.reference
        | .release => .release i
      x.offer = { x with port := { x.port with
        waitingDrives := rest
        tx := x.port.tx ++ [⟨.urgent, (x.stand i).record.driveStation, body, false, false⟩] } }) ∧
    (∀ n rest, x.port.waitingDrives = [] → x.port.waitingNotices = n :: rest →
      x.offer = { x with port := { x.port with
        waitingNotices := rest, tx := x.port.tx ++ [⟨.urgent, n.target, .notice n, false, false⟩] } }) ∧
    (x.port.waitingDrives = [] → x.port.waitingNotices = [] →
      (∀ g, waits g → x.offer = { x with port := { x.port with handlerSlot := true } }) ∧
      ((∀ g, ¬ waits g) →
        (x.line.reportStation = 0 → x.offer = { x with port := { x.port with owedReports := [] } }) ∧
        (∀ before i after, x.line.reportStation ≠ 0 → x.port.owedReports = before ++ i :: after → i ∉ before →
          (∀ j ∈ before, standing j) → ¬ standing i →
          x.offer = { x with port := { x.port with
            owedReports := before ++ after
            tx := x.port.tx ++ [⟨.normal, x.line.reportStation, .report i (x.stand i).ctx.state (x.stand i).events,
              false, false⟩] } }) ∧
        (x.line.reportStation ≠ 0 → (∀ j ∈ x.port.owedReports, standing j) → x.offer = x))) := by
  intro waits standing
  have hpass : x.port.waitingDrives = [] → x.port.waitingNotices = [] →
      x.offer = if x.handlerWaits then x.modPort fun p => { p with handlerSlot := true } else x.offerReports := by
    intro h1 h2
    unfold offer
    rw [if_pos hf, h1, h2]
  refine ⟨fun i k rest hw => ?_, fun n rest h1 h2 => ?_, fun h1 h2 => ⟨fun g hg => ?_, fun hg => ?_⟩⟩
  · unfold offer
    rw [if_pos hf, hw]
    cases k <;> rfl
  · unfold offer
    rw [if_pos hf, h1, h2]
    rfl
  · rw [hpass h1 h2]
    have : x.handlerWaits = true := by
      obtain ⟨a, b, c, d⟩ := hg
      unfold handlerWaits
      cases hr : x.port.rx with
      | nil => simp [hr] at a
      | cons q l =>
        simp [hr] at a
        subst a
        simp only [d, Frame.callsForReply, Frame.individual, partVerb, verbDriveOrder, verbSpliceNotice, verbStandReport,
          verbReply]
        simp at c
        simp [b, c]
    rw [if_pos this]
    rfl
  · rw [hpass h1 h2]
    have : x.handlerWaits = false := by
      cases hw : x.handlerWaits
      · rfl
      · unfold handlerWaits at hw
        cases hr : x.port.rx with
        | nil => simp [hr] at hw
        | cons q l =>
          simp only [hr, Frame.callsForReply, Frame.individual, partVerb, verbDriveOrder, verbSpliceNotice,
            verbStandReport, verbReply] at hw
          exfalso
          apply hg q
          simp at hw
          obtain ⟨⟨w1, w2⟩, w6⟩ := hw
          exact ⟨by simp [hr], by omega, by simpa [and_assoc] using w2, w6⟩
    rw [if_neg (by simp [this])]
    refine ⟨fun h0 => ?_, fun before i after h0 hq hni hst hns => ?_, fun h0 hst => ?_⟩
    · unfold offerReports
      rw [if_pos h0]
      rfl
    · unfold offerReports
      rw [if_neg h0]
      have hfind : (x.port.owedReports.find? fun i => !(x.port.tx.any (TxEntry.isReport i))) = some i := by
        rw [hq, List.find?_append, List.find?_eq_none.2]
        · have : x.port.tx.any (TxEntry.isReport i) = false := by
            cases h : x.port.tx.any (TxEntry.isReport i)
            · rfl
            · exact absurd ((any_isReport _ _).1 h) hns
          rw [List.find?_cons, this]
          rfl
        · intro j hj
          rw [(any_isReport _ _).2 (hst j hj)]
          simp
      have he : x.port.owedReports.erase i = before ++ after := by
        rw [hq, List.erase_append_right _ hni, List.erase_cons_head]
      rw [hfind, ← he]
      rfl
    · unfold offerReports
      rw [if_neg h0, List.find?_eq_none.2]
      intro j hj
      rw [(any_isReport _ _).2 (hst j hj)]
      simp

/-! ### Notices -/

/-- The placing of a notice, said once: it joins the queue when a slot is free; else it takes the place of the stand's pending
notice, whose record is marked (R132, R133, R134). -/
theorem sendNotice_spec (s : State) (n : Notice) :
    let held := s.port.waitingNotices.filter fun a => a.stand == n.stand
    (s.hasFree = true → s.sendNotice n = { s with port := { s.port with tx := s.port.tx ++ [n.entry] } }) ∧
    (s.hasFree = false → s.sendNotice n = { s with
      log := s.log.map fun r => if held.any (fun a => a.seq == r.seq) then { r with noticeUnacked := true } else r
      port := { s.port with
        waitingNotices := s.port.waitingNotices.filter (fun a => !(a.stand == n.stand)) ++ [n] } }) := by
  intro held
  constructor
  · intro h
    unfold sendNotice
    rw [if_pos h]
    rfl
  · intro h
    unfold sendNotice dropPendingNotice
    rw [if_neg (by simp [h])]
    simp only [markAll_eq]
    rfl

/-- The writing of an outcome, said once: the log takes the record, and SPLICED, BREAK_SUSPECT and FAILED_INTERLOCK send its
notice (R130, R132). -/
theorem writeOutcome_eq (s : State) (i : StandNo) (o : SpliceOutcome) :
    let t := s.logRecord (s.makeRecord i o)
    (o = .spliced ∨ o = .breakSuspect ∨ o = .failedInterlock →
      s.writeOutcome i o = t.sendNotice (t.makeNotice (s.makeRecord i o))) ∧
    (¬ (o = .spliced ∨ o = .breakSuspect ∨ o = .failedInterlock) → s.writeOutcome i o = t) := by
  unfold writeOutcome
  cases o <;> simp

/-- What the writing of an outcome leaves in the log, up to the NOTICE_UNACKED marks (R130, R134). -/
theorem writeOutcome_log (s : State) (i : StandNo) (o : SpliceOutcome) :
    ∃ f : SpliceRecord → Bool, (s.writeOutcome i o).log = (newest 48 (s.log ++ [s.makeRecord i o])).map (fun r =>
      if f r then { r with noticeUnacked := true } else r) ∧ (s.writeOutcome i o).nextSeq = s.nextSeq + 1 := by
  have hl : (s.logRecord (s.makeRecord i o)).log = newest 48 (s.log ++ [s.makeRecord i o]) := by
    unfold logRecord
    exact newest_append _ _
  have hn : (s.logRecord (s.makeRecord i o)).nextSeq = s.nextSeq + 1 := rfl
  obtain ⟨h1, h2⟩ := writeOutcome_eq s i o
  by_cases ho : o = .spliced ∨ o = .breakSuspect ∨ o = .failedInterlock
  · rw [h1 ho]
    obtain ⟨h3, h4⟩ := sendNotice_spec (s.logRecord (s.makeRecord i o)) ((s.logRecord (s.makeRecord i o)).makeNotice
      (s.makeRecord i o))
    cases hf : (s.logRecord (s.makeRecord i o)).hasFree
    · rw [h4 hf, ← hl]
      exact ⟨_, rfl, hn⟩
    · rw [h3 hf, ← hl]
      exact ⟨fun _ => false, by simp, hn⟩
  · rw [h2 ho, ← hl]
    exact ⟨fun _ => false, by simp, hn⟩

/-- A notice placed or held is on its way. -/
theorem sendNotice_given (s : State) (n : Notice) : (s.sendNotice n).NoticeGiven n := by
  obtain ⟨h1, h2⟩ := sendNotice_spec s n
  cases hf : s.hasFree
  · rw [h2 hf]
    right
    simp
  · rw [h1 hf]
    left
    simp [Notice.entry]

/-- The operation loses no notice that is on its way: an entry of the queue that holds a notice stays, and a pending notice stays
or is placed. -/
def CarriesNotices (s u : State) : Prop := ∀ n, s.NoticeGiven n → u.NoticeGiven n

theorem CarriesNotices.refl (s : State) : CarriesNotices s s := fun _ h => h

theorem CarriesNotices.trans {s t u : State} (h : CarriesNotices s t) (k : CarriesNotices t u) : CarriesNotices s u :=
  fun n hn => k n (h n hn)

/-- An operation that leaves the port alone. -/
theorem CarriesNotices.ofPort {s u : State} (h : u.port = s.port) : CarriesNotices s u := by
  intro n hn
  unfold NoticeGiven at *
  rw [h]
  exact hn

theorem offer_carries (s : State) : CarriesNotices s s.offer := by
  have app : ∀ (x : State) (e : TxEntry), x.port.tx = s.port.tx ++ [e] → x.port.waitingNotices = s.port.waitingNotices →
      CarriesNotices s x := by
    intro x e h1 h2 n hn
    unfold NoticeGiven at *
    rw [h1, h2]
    exact hn.imp (fun h => List.mem_append_left _ h) id
  unfold offer
  split
  · split
    · exact app _ _ rfl rfl
    · split
      · rename_i m rest hw
        rintro n (hn | hn)
        · exact .inl (List.mem_append_left _ hn)
        · rw [hw, List.mem_cons] at hn
          rcases hn with rfl | hn
          · exact .inl (by simp [place, Notice.entry])
          · exact .inr hn
      · split
        · exact fun n hn => hn
        · unfold offerReports
          split
          · exact fun n hn => hn
          · split
            · exact .refl s
            · exact app _ _ rfl rfl
  · exact .refl s

theorem offerMany_carries (k : Nat) (s : State) : CarriesNotices s (offerMany k s) := by
  induction k generalizing s with
  | zero => exact .refl s
  | succ k ih => exact (offer_carries s).trans (ih s.offer)

theorem raise_carries (s : State) (i : StandNo) (k : EventKind) : CarriesNotices s (s.raise i k) := by
  rintro n (hn | hn)
  · exact .inl ((raise_tx s i k).1 _ hn (by simp))
  · right
    have hb : ∀ x : State, (x.bringUpReport i).port.waitingNotices = x.port.waitingNotices := by
      intro x
      have ho : (x.owe i).port.waitingNotices = x.port.waitingNotices := by
        unfold owe
        split <;> rfl
      unfold bringUpReport
      split
      · rfl
      · split
        · split
          · exact ho
          · rfl
        · split
          · rfl
          · exact ho
    unfold raise
    split
    · exact hn
    · rw [hb]
      exact hn

theorem queueDrive_carries (s : State) (i : StandNo) (k : DriveKind) : CarriesNotices s (s.queueDrive i k) := by
  unfold queueDrive
  split
  · rintro n (hn | hn)
    · exact .inl (List.mem_append_left _ hn)
    · exact .inr hn
  · exact fun n hn => hn

theorem stopLoop_carries (s : State) (i : StandNo) : CarriesNotices s (s.stopLoop i) := by
  unfold stopLoop withdrawReferences
  refine CarriesNotices.trans ?_ (offerMany_carries _ _)
  rintro n (hn | hn)
  · left
    simp only [killReferences, port_modPort, List.mem_map, List.mem_filter]
    exact ⟨_, ⟨hn, by simp [TxEntry.isReference]⟩, by simp [TxEntry.isReference]⟩
  · exact .inr hn

end State

end Machine

end Sys2Proof
end

