-- ==== Sys2Proof/Laws/Sample.lean ====
section
/-! SUPPORT. A line sample seen from one stand: its two matters act on it, in one order or the other, and whatever the other stands do between them leaves the stand and its references alone. -/

namespace Sys2Proof

namespace Machine

namespace State

/-! ### The references of a stand -/

/-- Every REFERENCE of the stand in the transmit queue stays there as it is. -/
def KeepsReferences (i : StandNo) (s u : State) : Prop :=
  ∀ a ∈ s.port.tx, ∀ w, a.body = .reference i w → a ∈ u.port.tx

theorem KeepsReferences.refl (i : StandNo) (s : State) : KeepsReferences i s s := fun _ h _ _ => h

theorem KeepsReferences.trans {i : StandNo} {s t u : State} (h : KeepsReferences i s t) (k : KeepsReferences i t u) :
    KeepsReferences i s u := fun a ha w hw => k a (h a ha w hw) w hw

/-- An operation that leaves the port alone. -/
theorem KeepsReferences.ofPort {i : StandNo} {s u : State} (h : u.port = s.port) : KeepsReferences i s u := by
  intro a ha w hw
  rw [h]
  exact ha

/-- An operation after which every entry of the queue still stands in it. -/
theorem KeepsReferences.ofTx {i : StandNo} {s u : State} (h : ∀ a ∈ s.port.tx, a ∈ u.port.tx) : KeepsReferences i s u :=
  fun a ha _ _ => h a ha

theorem offer_keepsTx (s : State) : ∀ a ∈ s.port.tx, a ∈ s.offer.port.tx := by
  intro a ha
  unfold offer
  split
  · split
    · exact List.mem_append_left _ ha
    · split
      · exact List.mem_append_left _ ha
      · split
        · exact ha
        · unfold offerReports
          split
          · exact ha
          · split
            · exact ha
            · exact List.mem_append_left _ ha
  · exact ha

theorem offerMany_keepsTx (n : Nat) (s : State) : ∀ a ∈ s.port.tx, a ∈ (offerMany n s).port.tx := by
  induction n generalizing s with
  | zero => exact fun a ha => ha
  | succ n ih => exact fun a ha => ih s.offer a (offer_keepsTx s a ha)

theorem raise_keepsReferences (s : State) (i j : StandNo) (k : EventKind) : KeepsReferences i s (s.raise j k) :=
  fun a ha w hw => (raise_tx s j k).1 a ha (by simp [hw])

theorem queueDrive_keepsReferences (s : State) (i j : StandNo) (k : DriveKind) : KeepsReferences i s (s.queueDrive j k) := by
  unfold queueDrive
  split
  · exact .ofTx fun a ha => List.mem_append_left _ ha
  · exact .ofTx fun a ha => ha

theorem isReference_other {a : TxEntry} {i j : StandNo} {w : Nat} (h : a.body = .reference i w) (hj : j ≠ i) :
    a.isReference j = false := by
  simp [TxEntry.isReference, h, hj.symm]

theorem killReferences_keepsReferences (s : State) {i j : StandNo} (hj : j ≠ i) :
    KeepsReferences i s (s.killReferences j) := by
  intro a ha w hw
  simp only [killReferences, port_modPort, List.mem_map]
  exact ⟨a, ha, by simp [isReference_other hw hj]⟩

theorem stopLoop_keepsReferences (s : State) {i j : StandNo} (hj : j ≠ i) : KeepsReferences i s (s.stopLoop j) := by
  intro a ha w hw
  unfold stopLoop withdrawReferences
  refine offerMany_keepsTx _ _ a (killReferences_keepsReferences _ hj a ?_ w hw)
  simp only [port_modPort, List.mem_filter]
  exact ⟨ha, by simp [isReference_other hw hj]⟩

theorem sendNotice_keepsReferences (s : State) (i : StandNo) (n : Notice) : KeepsReferences i s (s.sendNotice n) := by
  obtain ⟨h1, h2⟩ := sendNotice_spec s n
  cases hf : s.hasFree
  · rw [h2 hf]
    exact .ofTx fun a ha => ha
  · rw [h1 hf]
    exact .ofTx fun a ha => List.mem_append_left _ ha

theorem writeOutcome_keepsReferences (s : State) (i j : StandNo) (o : SpliceOutcome) :
    KeepsReferences i s (s.writeOutcome j o) := by
  obtain ⟨h1, h2⟩ := writeOutcome_eq s j o
  by_cases ho : o = .spliced ∨ o = .breakSuspect ∨ o = .failedInterlock
  · rw [h1 ho]
    exact fun a ha w hw => sendNotice_keepsReferences (s.logRecord (s.makeRecord j o)) i _ a ha w hw
  · rw [h2 ho]
    exact fun a ha _ _ => ha

theorem abort_keepsReferences (s : State) {i j : StandNo} (hj : j ≠ i) (c : AbortCause) :
    KeepsReferences i s (s.abort j c) := by
  let x := ((s.enterState j .stopping).modOut j fun o => { o with pasterAt := none }).modCtx j fun x =>
    { x with missingTabAt := none, cause := some c }
  let y := (x.writeOutcome j .aborted).clearHeadReady j
  let z := ((y.stopLoop j).queueDrive j .release).setPrewarn j false
  have hx : KeepsReferences i s x := .ofPort (by simp [x])
  have hy : KeepsReferences i x y := (writeOutcome_keepsReferences x i j .aborted).trans (.ofPort (port_clearHeadReady _ j))
  have hz : KeepsReferences i y z := ((stopLoop_keepsReferences y hj).trans (queueDrive_keepsReferences _ i j .release)).trans
    (.ofPort (port_setPrewarn _ j false))
  have ha : s.abort j c = (z.raise j .aborted).modCtx j fun x =>
      { x with stoppingAt := some (after (z.raise j .aborted).clock Config.stoppingDelay) } := rfl
  rw [ha]
  exact ((hx.trans hy).trans hz).trans ((raise_keepsReferences z i j .aborted).trans (.ofPort (port_modCtx _ j _)))

theorem risePrewarn_keepsReferences (s : State) (i j : StandNo) : KeepsReferences i s (s.risePrewarn j) := by
  unfold risePrewarn
  split
  · exact .refl i s
  · exact .trans (.ofPort (port_setPrewarn s j true)) (raise_keepsReferences _ i j _)

theorem port_fixFresh (s : State) (i : StandNo) : (s.fixFresh i).port = s.port := by
  unfold fixFresh
  split <;> rfl

theorem resetLoop_keepsReferences (s : State) {i j : StandNo} (hj : j ≠ i) : KeepsReferences i s (s.resetLoop j) := by
  let x := (s.modLoop j fun _ => { Loop.start with activity := .running }).killReferences j
  let y := x.modPort fun p => { p with waitingDrives := p.waitingDrives.filter fun d => !(d.stand == j) }
  have hx : KeepsReferences i s x :=
    (KeepsReferences.ofPort (port_modLoop s j _)).trans (killReferences_keepsReferences _ hj)
  have hy : KeepsReferences i x y := fun a ha _ _ => ha
  have hr : s.resetLoop j = if (s.port.waitingDrives.any fun d => d.stand == j) = true then y.raise j .driveFault else x :=
    rfl
  rw [hr]
  split
  · exact (hx.trans hy).trans (raise_keepsReferences y i j _)
  · exact hx

theorem enterRunUp_keepsReferences (s : State) {i j : StandNo} (hj : j ≠ i) : KeepsReferences i s (s.enterRunUp j) := by
  let x := ((s.enterState j .runUp).modCtx j freshFigures).fixFresh j
  have hx : KeepsReferences i s x := .ofPort (by simp [x, port_fixFresh])
  have hr : s.enterRunUp j = ((x.resetLoop j).risePrewarn j).raise j .runUpStart := rfl
  rw [hr]
  exact ((hx.trans (resetLoop_keepsReferences x hj)).trans (risePrewarn_keepsReferences _ i j)).trans
    (raise_keepsReferences _ i j _)

/-! ### One matter of another stand -/

/-- What happens elsewhere, seen from stand `i`: the stand is as it was, its references stand in the queue, and nothing that a
sweep keeps is changed. -/
structure Elsewhere (i : StandNo) (s u : State) : Prop where
  swept : Swept s u
  stand : u.stand i = s.stand i
  references : KeepsReferences i s u

theorem Elsewhere.refl (i : StandNo) (s : State) : Elsewhere i s s := ⟨.refl s, rfl, .refl i s⟩

theorem Elsewhere.trans {i : StandNo} {s t u : State} (h : Elsewhere i s t) (k : Elsewhere i t u) : Elsewhere i s u :=
  ⟨h.swept.trans k.swept, k.stand.trans h.stand, h.references.trans k.references⟩

/-- The reference moves toward V + C by at most the ramp, within 0 to 16,000, and is then placed (R95, R96). -/
theorem updateReference_ramped (s : State) (i : StandNo) (dt : Nat) :
    s.updateReference i dt = s.placeReference i (s.rampedSpeed i dt) := by
  have h : (clampInt 0 16000 (clampInt ((s.stand i).loop.reference - ((s.headGrade i).runUpRate * dt / 1000000 : Nat))
      ((s.stand i).loop.reference + ((s.headGrade i).runUpRate * dt / 1000000 : Nat))
      ((s.trackerOf i).v + (s.stand i).loop.correction))).toNat = s.rampedSpeed i dt := by
    simp only [rampedSpeed]
    unfold clampInt trackerOf
    generalize ((s.headGrade i).runUpRate * dt / 1000000 : Nat) = ramp
    generalize (s.tracker (s.stand i).record.webSlot).v = v
    repeat' split
    all_goals omega
  rw [← h]
  rfl

/-- An order to the drive leaves the loop as it is or sets its reference alone; with an entry of the stand not begun it does the
latter and the entry carries the speed (R96). -/
theorem placeReference_stand (s : State) (i : StandNo) (v : Nat) :
    let set : Stand := { s.stand i with loop := { (s.stand i).loop with reference := v } }
    ((s.placeReference i v).stand i = s.stand i ∨ (s.placeReference i v).stand i = set) ∧
    ((∃ a ∈ s.port.tx, a.begun = false ∧ ∃ w, a.body = .reference i w) → (s.placeReference i v).stand i = set ∧
      ∃ a ∈ (s.placeReference i v).port.tx, a.begun = false ∧ a.body = .reference i v) := by
  unfold placeReference
  constructor
  · split
    · exact .inr (by simp)
    · split
      · exact .inr (by simp [place])
      · exact .inl rfl
  · rintro ⟨a, ha, hb, w, hw⟩
    have hc : (a.isReference i && !a.begun) = true := by simp [TxEntry.isReference, hw, hb]
    rw [if_pos (List.any_eq_true.2 ⟨a, ha, hc⟩)]
    exact ⟨by simp, { a with body := .reference i v }, List.mem_map.2 ⟨a, ha, by rw [if_pos hc]⟩, hb, rfl⟩

theorem placeReference_keepsReferences (s : State) {i j : StandNo} (hj : j ≠ i) (v : Nat) :
    KeepsReferences i s (s.placeReference j v) := by
  unfold placeReference
  split
  · intro a ha w hw
    show a ∈ s.port.tx.map _
    exact List.mem_map.2 ⟨a, ha, by simp [isReference_other hw hj]⟩
  · split
    · exact fun a ha _ _ => List.mem_append_left _ ha
    · exact .refl i s

theorem predict_keepsReferences (s : State) {i j : StandNo} (hj : j ≠ i) : KeepsReferences i s (s.predict j) := by
  unfold predict
  dsimp only
  split
  · exact .refl i s
  · split
    · split
      · exact (risePrewarn_keepsReferences s i j).trans (enterRunUp_keepsReferences _ hj)
      · exact risePrewarn_keepsReferences s i j
    · split
      · exact enterRunUp_keepsReferences s hj
      · exact .refl i s

theorem hearMatter_elsewhere (x : State) (p : List Byte) (m : Matter) (s : State) {i : StandNo} (h : m.stand ≠ i) :
    Elsewhere i s (hearMatter x p m s) := by
  refine ⟨(hearMatter_own x p m s).swept, (hearMatter_own x p m s).stands i (Ne.symm h), ?_⟩
  unfold hearMatter loopHears contextHears
  dsimp only
  split
  · split
    · split
      · exact placeReference_keepsReferences s h _
      · exact .refl i s
    all_goals exact .refl i s
  · split
    · split
      · exact predict_keepsReferences s h
      · split
        · unfold abortBeforeFire
          split
          · exact abort_keepsReferences s h _
          · exact .refl i s
        · exact .refl i s
    · unfold leaveFireSet
      split
      · exact .ofPort (by simp)
      · exact .refl i s
    all_goals exact .refl i s

/-! ### The two matters of a stand -/

theorem fold_elsewhere (x : State) (p : List Byte) (i : StandNo) (l : List Matter) (h : ∀ m ∈ l, m.stand ≠ i) (s : State) :
    Elsewhere i s (l.foldl (fun s' m => hearMatter x p m s') s) := by
  induction l generalizing s with
  | nil => exact .refl i s
  | cons m l ih =>
    exact (hearMatter_elsewhere x p m s (h m (by simp))).trans (ih (fun m hm => h m (by simp [hm])) _)

theorem allMatters_nodup : allMatters.Nodup := by decide

theorem mem_allMatters (m : Matter) : m ∈ allMatters := by
  obtain ⟨i, u⟩ := m
  revert i
  cases u <;> decide

/-- A line sample seen from one stand: between what happens elsewhere, its loop and its context take their matters, each once,
in one order or the other (R28, R35). -/
theorem takeSample_seen (s : State) (p : List Byte) (o : List Matter) (i : StandNo) :
    ∃ (a b : Matter) (x y : State), (a = ⟨i, .loop⟩ ∧ b = ⟨i, .context⟩ ∨ a = ⟨i, .context⟩ ∧ b = ⟨i, .loop⟩) ∧
      Elsewhere i (s.mapTrackers fun k _ => (s.sampleSlot p k).1) x ∧ Elsewhere i (hearMatter s p a x) y ∧
      Elsewhere i (hearMatter s p b y) (s.takeSample p o) := by
  have hn := wholeOrder_nodup allMatters_nodup o
  have hm : ∀ m, m ∈ wholeOrder allMatters o := fun m => (mem_wholeOrder o m).2 (mem_allMatters m)
  have two : ∀ a b : Matter, (a = ⟨i, .loop⟩ ∧ b = ⟨i, .context⟩ ∨ a = ⟨i, .context⟩ ∧ b = ⟨i, .loop⟩) →
      ∀ pre mid post, wholeOrder allMatters o = pre ++ a :: (mid ++ b :: post) →
      ∃ (a b : Matter) (x y : State), (a = ⟨i, .loop⟩ ∧ b = ⟨i, .context⟩ ∨ a = ⟨i, .context⟩ ∧ b = ⟨i, .loop⟩) ∧
        Elsewhere i (s.mapTrackers fun k _ => (s.sampleSlot p k).1) x ∧ Elsewhere i (hearMatter s p a x) y ∧
        Elsewhere i (hearMatter s p b y) (s.takeSample p o) := by
    intro a b hab pre mid post hl
    have other : ∀ m : Matter, m ≠ a → m ≠ b → m.stand ≠ i := by
      rintro ⟨j, u⟩ h1 h2 rfl
      rcases hab with ⟨rfl, rfl⟩ | ⟨rfl, rfl⟩ <;> cases u <;> simp at h1 h2
    rw [hl] at hn
    simp only [List.nodup_append, List.nodup_cons, List.mem_append, List.mem_cons] at hn
    obtain ⟨-, ⟨h1, -, ⟨h2, -⟩, h3⟩, h4⟩ := hn
    refine ⟨a, b, _, _, hab, fold_elsewhere s p i pre (fun m hm => ?_) _, fold_elsewhere s p i mid (fun m hm => ?_) _, ?_⟩
    · exact other m (h4 m hm a (.inl rfl)) (h4 m hm b (.inr (.inr (.inl rfl))))
    · exact other m (fun h => h1 (.inl (h ▸ hm))) (h3 m hm b (.inl rfl))
    · unfold takeSample
      dsimp only
      rw [hl, List.foldl_append, List.foldl_cons, List.foldl_append, List.foldl_cons]
      exact fold_elsewhere s p i post (fun m hm => other m (fun h => h1 (.inr (.inr (h ▸ hm)))) (fun h => h2 (h ▸ hm))) _
  obtain ⟨pre, rest, hl⟩ := List.append_of_mem (hm ⟨i, .loop⟩)
  have hc := hm ⟨i, .context⟩
  rw [hl, List.mem_append, List.mem_cons] at hc
  rcases hc with hc | hc | hc
  · obtain ⟨q, r, rfl⟩ := List.append_of_mem hc
    exact two _ _ (.inr ⟨rfl, rfl⟩) q r rest (by rw [hl]; simp)
  · simp at hc
  · obtain ⟨q, r, rfl⟩ := List.append_of_mem hc
    exact two _ _ (.inl ⟨rfl, rfl⟩) pre q r hl

/-! ### The prediction, seen from its stand -/

/-- What entry to RUNUP does to the context and the loop, whatever drive order may still wait (R67, R94). -/
theorem enterRunUp_moves (s : State) (i : StandNo) :
    ((s.enterRunUp i).stand i).ctx = { freshFigures (s.stand i).ctx with state := .runUp, prewarn := true } ∧
      ((s.enterRunUp i).stand i).loop = ⟨.running, .acquire, 0, 0, 0, false, false, 0⟩ := by
  have he : s.enterRunUp i = (((((s.enterState i .runUp).modCtx i freshFigures).fixFresh i).resetLoop
    i).risePrewarn i).raise i .runUpStart := rfl
  have hr : ∀ y : State, ((y.resetLoop i).stand i).ctx = (y.stand i).ctx ∧
      ((y.resetLoop i).stand i).loop = ⟨.running, .acquire, 0, 0, 0, false, false, 0⟩ := by
    intro y
    unfold resetLoop
    dsimp only
    split
    · rw [stand_raise_eq, if_pos rfl]
      simp [killReferences, Loop.start]
    · simp [killReferences, Loop.start]
  have hf : ∀ y : State, ((y.fixFresh i).stand i).ctx = (y.stand i).ctx := by
    intro y
    unfold fixFresh
    split
    · rfl
    · simp
  rw [he, stand_raise_eq, if_pos rfl]
  obtain ⟨o, hp, -⟩ := risePrewarn_stand ((((s.enterState i .runUp).modCtx i freshFigures).fixFresh i).resetLoop i) i
  rw [hp]
  dsimp only
  rw [(hr _).1, (hr _).2, hf, stand_modCtx, if_pos rfl, stand_enterState, if_pos rfl]
  exact ⟨rfl, rfl⟩

/-- The prediction, said once: below 300 mm/s nothing moves; else RUNUP is entered when its conditions hold, and else the
prewarn mark rises within the warn time (R64 to R67). -/
theorem predict_moves (s : State) (i : StandNo) :
    let v := (s.trackerOf i).v
    let enters : Prop := s.remainingLength i * 1000 / v ≤ s.startTime i v ∧ s.runUpAllowed i = true
    let warns : Prop := s.remainingLength i * 1000 / v ≤ (s.stand i).record.warnTime
    ((s.predict i).stand i).ctx = (if v < 300 then (s.stand i).ctx
      else if enters then { freshFigures (s.stand i).ctx with state := .runUp, prewarn := true }
      else if warns then { (s.stand i).ctx with prewarn := true }
      else (s.stand i).ctx) ∧
    ((s.predict i).stand i).loop = (if v < 300 then (s.stand i).loop
      else if enters then ⟨.running, .acquire, 0, 0, 0, false, false, 0⟩
      else (s.stand i).loop) := by
  intro v enters warns
  obtain ⟨o, hp, -⟩ := risePrewarn_stand s i
  have hw := risePrewarn_own s i
  have hst : (s.risePrewarn i).startTime i v = s.startTime i v := by
    unfold startTime headGrade head grade
    rw [hp, hw.grades]
  have hal : (s.risePrewarn i).runUpAllowed i = s.runUpAllowed i := by
    unfold runUpAllowed trackerOf State.tracker
    rw [hp, hw.mode, hw.trackers]
  have hpr : s.predict i = if v < 300 then s
      else if enters then (if warns then s.risePrewarn i else s).enterRunUp i
      else if warns then s.risePrewarn i else s := by
    unfold predict
    dsimp only
    by_cases h : warns
    · simp only [show s.remainingLength i * 1000 / (s.trackerOf i).v ≤ (s.stand i).record.warnTime from h, if_true, h]
      rw [hst, hal]
    · simp only [show ¬ s.remainingLength i * 1000 / (s.trackerOf i).v ≤ (s.stand i).record.warnTime from h, if_false, h]
      rfl
  rw [hpr]
  by_cases h1 : v < 300
  · simp [h1]
  · rw [if_neg h1, if_neg h1, if_neg h1]
    by_cases h2 : enters
    · rw [if_pos h2, if_pos h2, if_pos h2]
      obtain ⟨e1, e2⟩ := enterRunUp_moves (if warns then s.risePrewarn i else s) i
      rw [e1, e2]
      refine ⟨?_, rfl⟩
      split
      · rw [hp]
        rfl
      · rfl
    · rw [if_neg h2, if_neg h2, if_neg h2]
      split
      · rw [hp]
        exact ⟨rfl, rfl⟩
      · exact ⟨rfl, rfl⟩

/-- What the prediction does to the context and the loop is read from the stand, its tracker, the mode and the tables alone. -/
theorem predict_seen {i : StandNo} {s t : State} (h : Swept s t) (hs : t.stand i = s.stand i) :
    ((t.predict i).stand i).ctx = ((s.predict i).stand i).ctx ∧
      ((t.predict i).stand i).loop = ((s.predict i).stand i).loop := by
  have hk : t.trackerOf i = s.trackerOf i := by
    unfold trackerOf State.tracker
    rw [hs, h.trackers]
  have hr : t.remainingLength i = s.remainingLength i := by
    unfold remainingLength runningGrade grade
    rw [hs, h.grades]
  have hst : ∀ v, t.startTime i v = s.startTime i v := by
    intro v
    unfold startTime headGrade head grade
    rw [hs, h.grades]
  have hal : t.runUpAllowed i = s.runUpAllowed i := by
    unfold runUpAllowed
    rw [hk, hs, h.mode]
  obtain ⟨h1, h2⟩ := predict_moves s i
  obtain ⟨h3, h4⟩ := predict_moves t i
  dsimp only at h1 h2 h3 h4
  rw [h1, h2, h3, h4, hk, hr, hst, hal, hs]
  exact ⟨rfl, rfl⟩

end State

end Machine

end Sys2Proof
end

