-- ==== Sys2Proof/WellFormed.lean ====
section
/-! DEFINITION. Which terms of Instr spell a command that can come from outside: payloads of at most 40 bytes, and orders that name nothing twice. -/

namespace Sys2Proof

/-- A payload has at most 40 bytes (R141). -/
def payloadOk (p : List Byte) : Bool := decide (p.length ≤ 40)

/-- An order of stands names no stand twice. -/
def standOrderOk (o : List StandNo) : Bool := decide o.Nodup

/-- An order of matters names no matter twice. -/
def matterOrderOk (o : List Matter) : Bool := decide o.Nodup

/-- A command is well formed: its payload fits a frame, and its order names each party at most once. The other
operands are in range by their types. -/
def Instr.wellFormed : Instr → Bool
  | .powerOn _ => true
  | .askStatus _ => true
  | .askStand _ => true
  | .askGrade _ => true
  | .askQueue _ => true
  | .askLog _ => true
  | .askLine _ => true
  | .putGrade _ => true
  | .putStand _ => true
  | .putLine _ => true
  | .setGroups _ => true
  | .addReel _ => true
  | .dropReel _ => true
  | .markReady _ => true
  | .setRunning _ => true
  | .setModeRun _ o => standOrderOk o
  | .setModeHold _ o => standOrderOk o
  | .setModeConfig _ o => standOrderOk o
  | .standOrderAutoOn _ => true
  | .standOrderAutoOff _ => true
  | .standOrderSpliceNow _ => true
  | .standOrderAbort _ => true
  | .standOrderManualTrackOn _ => true
  | .standOrderManualTrackOff _ => true
  | .takeControl _ => true
  | .giveControl _ => true
  | .clearLatchInterlock _ => true
  | .clearLatchEvents _ => true
  | .restart _ => true
  | .unknownVerb _ => true
  | .partVerbDiscarded _ => true
  | .lineHold _ p _ o => payloadOk p && standOrderOk o
  | .lineSample _ p _ o => payloadOk p && matterOrderOk o
  | .coastingExpiry _ _ o => standOrderOk o
  | .lostExpiry _ _ o => standOrderOk o
  | .windowClose _ _ o => standOrderOk o
  | .pulseInputChange _ _ _ _ => true
  | .changeAccepted _ _ _ _ => true
  | .stoppedTimerExpiry _ _ _ => true
  | .conversionCompletion _ _ => true
  | .guardOpen _ _ => true
  | .guardSafe _ _ => true
  | .missingTabExpiry _ _ => true
  | .pasterTimerExpiry _ _ => true
  | .knifeTimerExpiry _ _ => true
  | .confirmTimerExpiry _ _ => true
  | .stoppingTimerExpiry _ _ => true
  | .pasteEndExpiry _ _ => true
  | .knifeEndExpiry _ _ => true
  | .brakeDelayExpiry _ _ => true
  | .brakeHoldExpiry _ _ => true
  | .hornHalfPeriod _ _ => true
  | .prewarnPhase _ _ => true
  | .lockExpiry _ _ => true
  | .requestFrame _ p _ => payloadOk p
  | .transmitBegin _ => true
  | .lostArbitration _ => true
  | .transmitOutcome _ _ => true
  | .busIdle _ => true
  | .stuck _ o => standOrderOk o
  | .startMarkRead _ => true
  | .headerCheckEnd _ _ _ => true
  | .receptionAbandoned _ => true

end Sys2Proof
end

