-- ==== Sys2Proof/Tests/Slice0.lean ====
section
/-! SUPPORT. The model's own tests: the ill-formed terms, the manual's worked examples, and for each statement with hypotheses a concrete state and operands that meet them. -/

namespace Sys2Proof.Tests

open Sys2Proof Sys2Proof.Machine Sys2Proof.Machine.State

/-! ### Well-formedness -/

theorem test_wellFormed_refuses_payload_of_41 :
    (Instr.requestFrame 0 (List.replicate 41 0) 0).wellFormed = false ∧
      (Instr.lineSample 0 (List.replicate 41 0) 0 []).wellFormed = false ∧
      (Instr.lineHold 0 (List.replicate 41 0) 0 []).wellFormed = false ∧
      (Instr.requestFrame 0 (List.replicate 40 0) 0).wellFormed = true := by decide

theorem test_wellFormed_refuses_repeated_stand :
    (Instr.setModeHold 0 [2, 4, 2]).wellFormed = false ∧ (Instr.stuck ⟨0, []⟩ [1, 1]).wellFormed = false ∧
      (Instr.lostExpiry 0 3 [0, 0]).wellFormed = false ∧ (Instr.setModeHold 0 [2, 4, 1]).wellFormed = true := by decide

theorem test_wellFormed_refuses_repeated_matter :
    (Instr.lineSample 0 [] 0 [⟨1, .loop⟩, ⟨1, .loop⟩]).wellFormed = false ∧
      (Instr.lineSample 0 [] 0 [⟨1, .loop⟩, ⟨1, .context⟩]).wellFormed = true := by decide

/-! ### The press of the worked examples -/

/-- Grade 7 of section 1.11. -/
def grade7 : GradeRecord := ⟨75, 1000, 100, 1500, 12200, 40, 150, 1500, 4000, 30, 8, 400⟩

/-- Stand 3's record in the worked examples (sections 4.10, 6.10, 6.11, 11.1). -/
def record3 : StandRecord where
  enabled := true
  webSlot := 2
  driveStation := 23
  hornPitch := 2
  sensorToNip := 320
  pasterLatency := 60000
  knifeLatency := 18000
  knifePath := 600
  pasteHold := 500
  knifePulse := 100
  brakeDelay := 1500
  brakeHold := 8000
  filterTime := 100
  sensorZero := 2000
  sensorSlope := 3000
  dancerLow := 1200
  dancerHigh := 2900
  leadMargin := 2000
  warnTime := 20000

/-- Stand 3 of chapter 11 with its context in this state. -/
def stand3 (c : CtxState) : Stand :=
  { Stand.start false false false with
    record := record3
    queue := [⟨410022, 7, some 12500, some 55, true⟩, ⟨410023, 7, none, none, false⟩]
    running := some ⟨410021, 7⟩
    dRun := 1962
    measured := true
    runCh := ⟨true, false, some ⟨413999900, 100⟩, .turning, some 413960756, some 39166, some 421960756, 0, 0, 3, false⟩
    freshCh := ⟨false, false, none, .turning, some 413672751, some 327249, some 414000000, 0, 0, 3, false⟩
    vFresh := 12000
    dFresh := 12500
    source := .record
    ctx := { Context.start with state := c, auto := true }
    loop := ⟨.running, .track, 12, 12012, 8, true, false, 0⟩ }

/-- The tracker of web slot 2 in chapter 11: in TRACKING at 12,000 mm/s. -/
def tracker2 : Tracker :=
  { Tracker.start with
    state := .tracking, lastNumber := 44, lastLineTime := 5040000, anchor := 52000000, anchorTime := 414055000, v := 12000
    windowCount := 4, coastingAt := some 414000000, lostAt := some 414000000, windowAt := some 414000000 }

/-- A part in RUN, station 12, line master 5, report station 31, with this stand as its stand 3. -/
def press (x : Stand) : State :=
  { State.reset with
    clock := 413999000
    mode := .run
    grades := State.reset.grades.set 7 (some grade7)
    line := ⟨5, 31, 3, 3000⟩
    stands := State.reset.stands.set 2 x
    trackers := State.reset.trackers.set 2 tracker2
    port := { Port.start 12 with bus := .idle } }

/-- The press with stand 3 in this context state. -/
def at3 (c : CtxState) : State := press (stand3 c)

/-- The same part in CONFIG, its stand 3 idle. -/
def config3 : State := { press { stand3 .idle with ctx := { Context.start with state := .idle } } with mode := .config }

/-- A request frame from station 31 to the part. -/
def req (verb : Byte) (payload : List Byte) : Frame := ⟨.normal, 31, 12, verb, payload⟩

/-- A request frame from station 31 to every station. -/
def req255 (verb : Byte) (payload : List Byte) : Frame := ⟨.normal, 31, 255, verb, payload⟩

/-- The state with this frame alone in the receive queue. -/
def given (s : State) (f : Frame) : State := { s with port := { s.port with rx := [f] } }

/-- The instant at which the timers of the tests expire. -/
def now : Time := 414000000

/-- The state after a command; every command answers a next state. -/
def run (c : Instr) (s : State) : State :=
  match exec c s with
  | .next u => u
  | .fault _ => s
  | .refused _ => s

/-- The result code and data of the youngest entry's reply. -/
def lastReply (s : State) : Option (Result × List Byte) :=
  match s.port.tx.getLast? with
  | some ⟨_, _, .reply _ r d, _, _⟩ => some (r, d)
  | _ => none

/-- Offer a request to the state and give the state after the command. -/
def ask (c : Instr) (s : State) (f : Frame) : State := run c (given s f)

/-! ### Worked examples -/

/-- Section 2.13: the tracker after samples A to F, one at a time. -/
def tracked : List (Byte × Time × Pos × Time) → Tracker
  | [] => Tracker.start
  | (n, lt, p, t) :: earlier => ((tracked earlier).sample n lt p t 3000).1

/-- Samples A to F of section 2.13, the latest first. -/
def samplesAF : List (Byte × Time × Pos × Time) :=
  [(44, 5040000, 1004803, 2045000), (42, 5020000, 1002401, 2035300), (43, 5030000, 1003603, 2035000),
    (41, 5010000, 1001200, 2015400), (41, 5010000, 1001200, 2015000), (40, 5000000, 1000000, 2005000)]

theorem test_section_2_13 :
    tracked samplesAF = { Tracker.start with
      state := .tracking, lastNumber := 44, lastLineTime := 5040000, anchor := 1004803, anchorTime := 2045000, v := 12003
      windowCount := 4, coastingAt := some 2075000, lostAt := some 2295000, windowAt := some 2105000 } ∧
    (tracked (samplesAF.drop 5)).v = 0 ∧ (tracked (samplesAF.drop 4)).v = 12000 ∧
    tracked (samplesAF.drop 3) = tracked (samplesAF.drop 4) ∧ (tracked (samplesAF.drop 2)).v = 12003 ∧
    (tracked samplesAF).position 2065000 = 1007203 ∧ (tracked samplesAF).position 2095000 = 1010804 := by decide

theorem test_section_2_14 :
    let k45 := (tracked samplesAF).sample 45 5050000 1030000 2055000 3000
    let k46 := k45.1.sample 46 5060000 1031200 2065000 3000
    let k47 := k46.1.sample 47 5070000 1032400 2074000 3000
    let k48 := k47.1.sample 48 5080000 1033600 2084000 3000
    k45 = ({ tracked samplesAF with rejectRun := 1 }, .silent) ∧ k46 = ({ tracked samplesAF with rejectRun := 2 }, .silent) ∧
      k47.1.state = .acquiring ∧ k47.1.v = 12003 ∧ k47.1.anchor = 1032400 ∧ k47.1.rejectRun = 0 ∧ k47.2 = .reacquired ∧
      k48.1.v = 12000 ∧ k48.1.state = .tracking ∧ k48.2 = .accepted 10000 ∧
      (tracked samplesAF).sample 0 0 0 2055000 3000 = (tracked samplesAF, .silent) := by decide

/-- Section 4.10: L_rem at three diameters, t_start, and what each prediction does. -/
theorem test_section_4_10 :
    let d (n : Nat) : State := press { stand3 .watch with dRun := n }
    (d 2100).remainingLength 2 = 226194 ∧ (d 1975).remainingLength 2 = 172853 ∧ (d 1962).remainingLength 2 = 167493 ∧
      (d 1962).startTime 2 12000 = 14000 ∧
      (((d 2100).contextHears 2 (.accepted 10000)).stand 2).ctx.state = .watch ∧
      (((d 2100).contextHears 2 (.accepted 10000)).stand 2).ctx.prewarn = true ∧
      (((d 1975).contextHears 2 (.accepted 10000)).stand 2).ctx.state = .watch ∧
      (((d 1962).contextHears 2 (.accepted 10000)).stand 2).ctx.state = .runUp ∧
      (((d 1962).contextHears 2 (.accepted 10000)).stand 2).dFresh = 12500 := by decide

/-- Section 6.10: the plain delay, the wrap and the double wrap. -/
theorem test_section_6_10 :
    let r (n : Nat) : State := press { stand3 .fireWait with record := { record3 with pasterLatency := n } }
    (r 60000).pasterDelay 2 327249 = 62718 ∧ (r 150000).pasterDelay 2 327249 = 299967 ∧
      (r 200000).pasterDelay 2 60000 = 2500 := by decide

/-- Section 6.11: the knife delay, TAIL_SHORT, TAIL_LONG and the joint. -/
theorem test_section_6_11 :
    let r (v p k l : Nat) : State :=
      { press { stand3 .fireSet with record := { record3 with pasterLatency := p, knifeLatency := k, knifePath := l } } with
        trackers := State.reset.trackers.set 2 { tracker2 with v := v } }
    (r 12000 60000 18000 600).rawKnifeDelay 2 = 104500 ∧ (r 700 60000 18000 600).rawKnifeDelay 2 = 1113428 ∧
      (r 700 60000 18000 600).knifeDelay 2 = 1000000 ∧ (r 16000 8000 40000 200).rawKnifeDelay 2 = -10125 ∧
      (r 16000 8000 40000 200).knifeDelay 2 = 0 ∧
      (({ at3 .fireSet with clock := 414062718 } : State).jointPosition 2) = 52008126 := by decide

/-- Chapter 11: D_run from two RUN periods, and V_f from a FRESH period. -/
theorem test_chapter_11_periods :
    periodDiameter 12000 39244 = 1499 ∧ periodDiameter 12000 39166 = 1496 ∧ periodDiameter 12000 327249 = 12499 ∧
      surfaceSpeed 12500 327249 = 12000 := by decide

/-- Section 11.4: the paster fires, the knife fires, and the splice is confirmed. -/
theorem test_section_11_4_fire :
    let s : State := press { stand3 .fireSet with
      dRun := 1496, out := { Output.start false with pasterAt := some 414062718 }
      ctx := { Context.start with state := .fireSet, auto := true } }
    let u := run (.pasterTimerExpiry 414062718 2) s
    (u.stand 2).ctx.state = .pasting ∧ (u.stand 2).out.pasteEndAt = some 414562718 ∧
      (u.stand 2).out.knifeAt = some 414167218 ∧ (u.stand 2).ctx.joint = 52008126 ∧ (u.stand 2).ctx.vFire = 12000 ∧
      (u.stand 2).ctx.dRunFire = 1496 ∧ (u.stand 2).ctx.eFire = 0 ∧ (u.stand 2).ctx.tailLong = false := by decide

theorem test_section_11_4_knife :
    let s : State := press { stand3 .pasting with out := { Output.start false with knifeAt := some 414167218 } }
    let u := run (.knifeTimerExpiry 414167218 2) s
    (u.stand 2).ctx.state = .cut ∧ (u.stand 2).out.knife = true ∧ (u.stand 2).out.knifeEndAt = some 414267218 ∧
      (u.stand 2).out.brakeDelayAt = some 415667218 ∧ (u.stand 2).ctx.confirmAt = some 416167218 ∧
      u.port.tx = [⟨.urgent, 23, .handover 2 12012, false, false⟩] := by decide

theorem test_section_11_4_confirm :
    let s : State := { press { stand3 .cut with
      ctx := { Context.start with
        state := .cut, auto := true, vFire := 12000, dRunFire := 1496, joint := 52008126, confirmAt := some 416167218 } } with
      nextSeq := 140 }
    let u := run (.confirmTimerExpiry 416167218 2) s
    u.log = [⟨140, 2, 416167218, .spliced, none, false, false, false, false, .record, 410021, 410022, 12000, 1496, 52008126, 0⟩] ∧
      u.nextSeq = 141 ∧ (u.stand 2).running = some ⟨410022, 7⟩ ∧ (u.stand 2).dRun = 12500 ∧
      (u.stand 2).queue = [⟨410023, 7, none, none, false⟩] ∧ (u.stand 2).ctx.state = .noReel ∧
      (u.port.tx.map fun e => e.target) = [5, 31] := by decide

/-- Section 9.7: two consoles and a lock. -/
theorem test_section_9_7 :
    let s : State := press { stand3 .noReel with queue := [⟨410022, 7, none, none, false⟩] }
    let from40 (v : Byte) (p : List Byte) : Frame := ⟨.normal, 40, 12, v, p⟩
    let s1 := ask (.takeControl 50000000) s (req 0x62 [3])
    let s2 := ask (.markReady 51200000) s1 (from40 0x56 [3, 0, 6, 0x41, 0xA6])
    let s3 := ask (.markReady 53500000) s2 (req 0x56 [3, 0, 6, 0x41, 0xA6])
    let s4 := ask (.standOrderAbort 54000000) s3 (from40 0x61 [3, 4])
    (s1.stand 2).lock = some ⟨31, 55000000⟩ ∧ lastReply s1 = some (.accepted, [3, 31]) ∧
      lastReply s2 = some (.locked, [3, 31]) ∧ (s2.stand 2).ctx.state = .noReel ∧
      lastReply s3 = some (.accepted, []) ∧ (s3.stand 2).ctx.state = .watch ∧
      (s3.stand 2).lock = some ⟨31, 58500000⟩ ∧ lastReply s4 = some (.wrongState, []) := by decide

/-- Section 3.9: the dancer excursion in FIRE_SET is announced at the third code outside the band. -/
theorem test_section_3_9 :
    let s (n : Nat) : State := { press { stand3 .fireSet with dancer := ⟨2960, true, n⟩ } with scanNext := 2 }
    ((run (.conversionCompletion now 2850) (s 1)).stand 2).dancer.excursionRun = 0 ∧
      ((run (.conversionCompletion now 3010) (s 1)).stand 2).ctx.state = .fireSet ∧
      ((run (.conversionCompletion now 4095) (s 2)).stand 2).ctx.state = .stopping ∧
      ((run (.conversionCompletion now 4095) (s 2)).stand 2).ctx.cause = some .tension := by decide

set_option maxRecDepth 4000 in
/-- R142's examples, and the length of a frame on the line: 57 + 9 × L bit times, or 47 when the header slot of one to an
individual target reads recessive (R141). -/
theorem test_frame_bits :
    let f : Frame := ⟨.urgent, 12, 23, 0x20, [1, 3, 0x2E, 0xEC]⟩
    crcBytes [1] = 7 ∧ crcBytes [1, 0] = 21 ∧ crcBytes [0, 0, 0] = 0 ∧
      (f.lineBits false).length = 93 ∧ (f.lineBits true).length = 47 ∧
      (Frame.lineBits ⟨.normal, 12, 31, 0x31, []⟩ false).length = 57 ∧
      (Frame.lineBits ⟨.normal, 12, 255, 0x31, []⟩ true).length = 57 := by decide

/-- Section 8.6: urgent station 12 loses to urgent station 5 at the fifth sender bit, and wins against normal station 31 at
the class bit. -/
theorem test_section_8_6 :
    let f : Frame := ⟨.urgent, 12, 23, 0x20, [1, 3, 0x2E, 0xEC]⟩
    (f.contend [⟨.urgent, 5⟩, ⟨.normal, 31⟩]).won = false ∧
      (f.contend [⟨.urgent, 5⟩, ⟨.normal, 31⟩]).contest = [false, false, false, false, false, false] ∧
      (f.contend [⟨.normal, 31⟩]).won = true ∧ (f.contend [⟨.normal, 31⟩]).contest = contestBits .urgent 12 := by decide

/-! ### Witnesses: states and operands that meet the hypotheses of each statement -/

/-- What CanTake asks, as a decidable proposition. -/
theorem can {s : State} {f : Frame}
    (h : s.port.rx.head? = some f ∧ f.individual = true ∧
      (s.port.handlerSlot = true ∨ (s.port.tx.length < 12 ∧ s.port.handlerSlot = false ∧ s.port.waitingDrives = [] ∧
        s.port.waitingNotices = [] ∧ s.port.owedReports = []))) : s.CanTake f := h

/-- With room in the transmit queue and no party waiting, any frame to the part alone can be taken. -/
theorem given_can {s : State} {f : Frame} (hf : f.individual = true)
    (h : s.port.tx.length < 12 ∧ s.port.handlerSlot = false ∧ s.port.waitingDrives = [] ∧ s.port.waitingNotices = [] ∧
      s.port.owedReports = []) : (given s f).CanTake f := ⟨rfl, hf, .inr h⟩

/-- A free lock passes every sender. -/
theorem passes {s : State} {i : StandNo} {b : Byte} (h : (s.stand i).lock = none) : s.LockPasses i b := by
  intro l hl
  rw [h] at hl
  cases hl

/-- A reel id that stands nowhere. -/
theorem idFree {s : State} {id : ReelId} {o : Option StandNo}
    (h : ∀ j, (∀ r ∈ (s.stand j).queue, r.id ≠ id) ∧ (some j ≠ o → ((s.stand j).running.map fun r => r.id) ≠ some id)) :
    s.IdFreeBut id o := by
  intro j
  refine ⟨(h j).1, fun hj r hr e => (h j).2 hj ?_⟩
  rw [hr, ← e]
  rfl

/-- A log whose numbers are as they should be. -/
theorem lawful {s : State}
    (h : s.log.length ≤ 48 ∧ ∀ k : Fin s.log.length, s.log[k].seq = s.nextSeq - BitVec.ofNat 16 (s.log.length - k)) :
    s.LogLawful := ⟨h.1, fun k hk => h.2 ⟨k, hk⟩⟩

theorem test_witness_stepRunsFrontCommand : State.reset.pending = [] := by decide

theorem test_witness_restart :
    ((given (at3 .idle) (req 0x65 [])).CanTake (req 0x65 []) ∧ (req 0x65 []).verb = 0x65 ∧
      (given (at3 .idle) (req 0x65 [])).mode ≠ .config) ∧
    (given config3 (req 0x65 [])).CanTake (req 0x65 []) ∧ (given config3 (req 0x65 [])).mode = .config :=
  ⟨⟨can (by decide), by decide⟩, can (by decide), by decide⟩

/-- The example of RESTART with a notice waiting: its record is marked, and the reply stands in the emptied queue. -/
theorem test_restart_marks_the_notice :
    let r : SpliceRecord := { config3.makeRecord 2 .spliced with seq := 7 }
    let s : State := given { config3 with
      log := [r], nextSeq := 8
      port := { config3.port with waitingNotices := [⟨2, 5, 7, 0, 0, 0, .spliced⟩], handlerSlot := true } } (req 0x65 [])
    let u := run (.restart now) s
    (u.log.map fun r => r.noticeUnacked) = [true] ∧ u.port.tx.length = 1 ∧ lastReply u = some (.accepted, []) ∧
      (u.stand 2).queue = (config3.stand 2).queue := by decide

theorem test_witness_reads :
    let s (v : Byte) (p : List Byte) : State := given (at3 .watch) (req v p)
    ((s 0x40 []).CanTake (req 0x40 [])) ∧ ((s 0x45 []).CanTake (req 0x45 [])) ∧
      ((s 0x41 [3]).CanTake (req 0x41 [3]) ∧ (req 0x41 [3]).payload.head? = some (BitVec.ofNat 8 ((2 : StandNo).val + 1))) ∧
      ((s 0x42 [7]).CanTake (req 0x42 [7]) ∧ (req 0x42 [7]).payload.head? = some (BitVec.ofNat 8 (7 : Fin 32).val)) ∧
      ((s 0x43 [3]).CanTake (req 0x43 [3]) ∧ (req 0x43 [3]).payload.head? = some (BitVec.ofNat 8 ((2 : StandNo).val + 1))) ∧
      (at3 .watch).grades[7] = some grade7 ∧ (at3 .watch).grades[31] = none :=
  ⟨can (by decide), can (by decide), ⟨can (by decide), by decide⟩, ⟨can (by decide), by decide⟩,
    ⟨can (by decide), by decide⟩, by decide⟩

/-- A press whose log holds the records 138 and 139. -/
def logged : State :=
  { at3 .watch with
    log := [{ (at3 .watch).makeRecord 2 .runout with seq := 138 }, { (at3 .watch).makeRecord 2 .runout with seq := 139 }]
    nextSeq := 140 }

theorem test_witness_askLog :
    let f (a b : Byte) : Frame := req 0x44 [a, b]
    let d (a b : Byte) : Nat := ((140 : SeqNo) - (a ++ b)).toNat
    (∀ b : Byte, (given logged (f 0 b)).CanTake (f 0 b)) ∧ logged.LogLawful ∧ (at3 .watch).LogLawful ∧
      d 0 140 = 0 ∧ d 0 139 = 1 ∧ d 0 138 = logged.log.length ∧ d 0 137 = 3 ∧ d 0x80 0x8C = 32768 ∧ d 0x80 0x8B = 32769 ∧
      (at3 .watch).log = [] ∧ ((at3 .watch).nextSeq - ((0 : Byte) ++ (1 : Byte))).toNat ≠ 0 :=
  ⟨fun _ => given_can rfl (by decide), lawful (by decide), lawful (by decide), by decide⟩

theorem test_askLog_at_the_limits :
    let a (x y : Byte) := (lastReply (ask (.askLog now) logged (req 0x44 [x, y]))).map fun r => (r.1, r.2.take 2)
    a 0 140 = some (.empty, []) ∧ a 0 138 = some (.accepted, [0, 138]) ∧ a 0 137 = some (.gap, [0, 138]) ∧
      a 0x80 0x8C = some (.gap, [0, 138]) ∧ a 0x80 0x8B = some (.badValue, []) := by decide

theorem test_witness_groupFrames :
    let s (v : Byte) (p : List Byte) : State := given (at3 .runUp) (req255 v p)
    (given (at3 .watch) (req 0x46 [])).CanTake (req 0x46 []) ∧
      ((s 0x30 []).port.rx.head? = some (req255 0x30 []) ∧ (s 0x30 []).port.handlerSlot = false ∧
        (240 : Nat) ≤ (req255 0x41 [3]).target.toNat) ∧
      (25 ≤ (req255 0x50 (7 :: gradeBytes grade7)).payload.length ∧
        gradeInRange (gradeOfPayload (7 :: gradeBytes grade7)) = true ∧
        ∀ i, ((at3 .watch).stand i).ctx.state.splicing = false) ∧
      ((s 0x62 [3]).stand 2).lock = none ∧ (s 0x60 [2]).mode = .run ∧
      ((s 0x61 [3, 4]).stand 2).ctx.state.beforeFire = true :=
  ⟨can (by decide), by decide⟩

theorem test_witness_refusedFirst :
    (given (at3 .watch) (req 0x44 [0])).CanTake (req 0x44 [0]) ∧ (req 0x44 [0]).payload.length < 2 ∧
      (given (at3 .watch) (req 0x43 [7])).CanTake (req 0x43 [7]) ∧
      (given (at3 .watch) (req 0x62 [0])).CanTake (req 0x62 [0]) ∧
      (let s := press { stand3 .watch with lock := some ⟨40, 9⟩ };
        (given s (req 0x61 [3, 1])).CanTake (req 0x61 [3, 1]) ∧ s.mode = .run ∧
          (s.stand 2).lock = some ⟨40, 9⟩ ∧ (40 : Byte) ≠ (req 0x61 [3, 1]).sender) :=
  ⟨can (by decide), by decide, can (by decide), can (by decide), can (by decide), by decide⟩

/-- Orders and CLEAR LATCH events that name no stand; DROP REEL, AUTO ON and AUTO OFF of a stand that another station
holds, the two orders outside RUN. -/
theorem test_witness_refusedByStand :
    let s : State := { press { stand3 .watch with lock := some ⟨40, 9⟩ } with mode := .hold }
    let drop : Frame := req 0x54 [0, 6, 0x41, 0xA6]
    let hears (f : Frame) (c : Instr) : Option (Result × List Byte) := lastReply (ask c s f)
    (given s drop).CanTake drop ∧ 4 ≤ drop.payload.length ∧
      (s.stand 2).queue.any (fun r => decide (r.id = w32 drop.payload 0)) = true ∧
      (∀ j, j ≠ 2 → (s.stand j).queue = []) ∧ s.mode ≠ .config ∧
      hears drop (.dropReel now) = some (.locked, [3, 40]) ∧
      hears (req 0x61 [3, 1]) (.standOrderAutoOn now) = some (.locked, [3, 40]) ∧
      hears (req 0x61 [3, 2]) (.standOrderAutoOff now) = some (.locked, [3, 40]) ∧
      hears (req 0x61 [7, 4]) (.standOrderAbort now) = some (.badValue, []) ∧
      hears (req 0x61 [0, 2]) (.standOrderAutoOff now) = some (.badValue, []) ∧
      hears (req 0x64 [1, 7, 1, 0]) (.clearLatchEvents now) = some (.badValue, []) :=
  ⟨can (by decide), by decide⟩

/-- The payload of PUT GRADE for grade 7. -/
def gradePayload (g : GradeRecord) : List Byte := 7 :: gradeBytes g

theorem test_witness_putGrade :
    let f (g : GradeRecord) : Frame := req 0x50 (gradePayload g)
    (∀ g, (given (at3 .watch) (f g)).CanTake (f g)) ∧ (f grade7).payload.length = 25 ∧
      (f grade7).payload.head? = some (BitVec.ofNat 8 (7 : Fin 32).val) ∧
      gradeInRange (gradeOfPayload (f { grade7 with caliper := 29 }).payload) = false ∧
      gradeInRange (gradeOfPayload (f { grade7 with caliper := 30 }).payload) = true ∧
      (((at3 .runUp).stand 2).ctx.state.splicing = true ∧ ((at3 .runUp).stand 2).running = some ⟨410021, 7⟩) ∧
      ∀ i, ((at3 .watch).stand i).ctx.state.splicing = false :=
  ⟨fun _ => given_can rfl (by decide), by decide⟩

/-- The payload of PUT STAND for stand 3. -/
def standPayload (r : StandRecord) : List Byte :=
  [3, if r.enabled then 1 else 0, BitVec.ofNat 8 r.webSlot.val, r.driveStation, BitVec.ofNat 8 r.hornPitch.val] ++
    b2 r.sensorToNip ++ b4 (BitVec.ofNat 32 r.pasterLatency) ++ b4 (BitVec.ofNat 32 r.knifeLatency) ++ b2 r.knifePath ++
    b2 r.pasteHold ++ b2 r.knifePulse ++ b2 r.brakeDelay ++ b2 r.brakeHold ++ b2 r.filterTime ++ b2 r.sensorZero ++
    s2 r.sensorSlope ++ b2 r.dancerLow ++ b2 r.dancerHigh ++ b2 r.leadMargin ++ b2 r.warnTime

theorem test_witness_putStand :
    let f (r : StandRecord) : Frame := req 0x51 (standPayload r)
    (∀ r, (given (at3 .watch) (f r)).CanTake (f r)) ∧ (f record3).payload.length = 39 ∧
      standRecordOfPayload (f record3).payload = some record3 ∧
      standRecordOfPayload (f { record3 with enabled := false, sensorSlope := -10000 }).payload =
        some { record3 with enabled := false, sensorSlope := -10000 } ∧
      standInRange record3 = true ∧ standInRange { record3 with enabled := false, sensorSlope := -10000 } = true ∧
      ((at3 .runUp).stand 2).ctx.state.resting = false ∧ ((at3 .watch).stand 2).ctx.state.resting = true ∧
      ((at3 .watch).stand 2).record.enabled = true ∧
      (let x := (press { stand3 .off with record := { record3 with enabled := false }, ctx := Context.start }).stand 2;
        x.record.enabled = false ∧ x.ctx.state = .off ∧ x.ctx.auto = false) :=
  ⟨fun _ => given_can rfl (by decide), by decide⟩

theorem test_putStand_retunes_trackers :
    let u := ask (.putStand now) (at3 .watch) (req 0x51 (standPayload { record3 with webSlot := 4 }))
    lastReply u = some (.accepted, []) ∧ (u.stand 2).measured = false ∧ (u.tracker 2).state = .tracking ∧
      (u.tracker 2).lostAt = none ∧ u.tracker 4 = Tracker.start := by decide

theorem test_witness_lineAndGroups :
    let f : Frame := req 0x52 [5, 31, 10, 0x0B, 0xB8]
    let g : Frame := req 0x66 [2, 240, 254]
    (given config3 f).CanTake f ∧ (given config3 g).CanTake g ∧ (given (at3 .watch) f).mode ≠ .config ∧
      (given config3 f).mode = .config ∧ config3.port.station = 12 ∧
      g.payload = BitVec.ofNat 8 ([240, 254] : List Byte).length :: (([240, 254] : List Byte) ++ []) ∧
      (lastReply (ask (.putLine now) config3 f) = some (.accepted, [])) ∧
      (lastReply (ask (.putLine now) config3 (req 0x52 [5, 31, 11, 0x0B, 0xB8])) = some (.badValue, [])) ∧
      (lastReply (ask (.setGroups now) config3 g) = some (.accepted, [])) ∧
      (lastReply (ask (.setGroups now) config3 (req 0x66 [1, 255])) = some (.badValue, [])) ∧
      (lastReply (ask (.setGroups now) (at3 .watch) g) = some (.wrongMode, [])) :=
  ⟨can (by decide), can (by decide), by decide⟩

theorem test_witness_reelQueue :
    let a : Frame := req 0x53 [3, 0, 6, 0x41, 0xA8, 7, 3, 0x09, 0xC4, 0x03, 0xE7]
    let d : Frame := req 0x54 [0, 6, 0x41, 0xA6]
    let d2 : Frame := req 0x54 [0, 6, 0x41, 0xA7]
    let m : Frame := req 0x56 [3, 0, 6, 0x41, 0xA6]
    let s := given (at3 .watch) a
    let held := press { stand3 .watch with lock := some ⟨40, 9⟩ }
    (s.CanTake a ∧ s.LockPasses 2 a.sender ∧ s.IdFreeBut (w32 a.payload 1) none ∧ (s.stand 2).queue.length < 3 ∧
      w32 a.payload 1 ≠ 0 ∧ u8 a.payload 5 = (7 : Fin 32).val ∧ s.grades[7] = some grade7 ∧ u16 a.payload 7 = 2500 ∧
      u16 a.payload 9 = 999) ∧
    ((given held a).CanTake a ∧ (held.stand 2).lock = some ⟨40, 9⟩) ∧
    ((given (at3 .runUp) d).CanTake d ∧ (given (at3 .runUp) d2).CanTake d2 ∧
      (410022 : ReelId) = w32 d.payload 0 ∧ (410023 : ReelId) = w32 d2.payload 0 ∧
      ((at3 .runUp).stand 2).ctx.state.splicing = true ∧
      ∀ j, j ≠ 2 → ((at3 .runUp).stand j).queue = [] ∧ ((at3 .runUp).stand j).running = none) ∧
    ((given (at3 .stopping) m).CanTake m ∧ (410022 : ReelId) = w32 m.payload 1 ∧
      ((at3 .stopping).stand 2).ctx.state = .stopping ∧ ((at3 .noReel).stand 2).ctx.state ≠ .stopping) :=
  ⟨⟨can (by decide), passes (by decide), idFree (by decide), by decide⟩, ⟨can (by decide), by decide⟩,
    ⟨can (by decide), can (by decide), by decide⟩, can (by decide), by decide⟩

theorem test_reelQueue_results :
    let d : Frame := req 0x54 [0, 6, 0x41, 0xA6]
    let a : Frame := req 0x53 [3, 0, 6, 0x41, 0xA8, 7, 3, 0x09, 0xC4, 0x03, 0xE7]
    lastReply (ask (.dropReel now) (at3 .runUp) d) = some (.inUse, []) ∧
      (((ask (.dropReel now) (at3 .watch) d).stand 2).queue.map fun r => (r.id, r.ready)) = [(410023, false)] ∧
      ((ask (.dropReel now) (at3 .watch) d).stand 2).ctx.state = .noReel ∧
      ((ask (.addReel now) (at3 .watch) a).stand 2).queue.length = 3 ∧
      lastReply (ask (.markReady now) (at3 .stopping) (req 0x56 [3, 0, 6, 0x41, 0xA6])) = some (.wrongState, []) := by decide

theorem test_witness_setRunning :
    let f (hi lo : Byte) : Frame := req 0x55 [3, 0, 6, 0x41, 0xB0, 7, 1, hi, lo]
    let z : Frame := req 0x55 [3, 0, 0, 0, 0, 0, 0, 0, 0]
    (∀ hi lo, (given (at3 .watch) (f hi lo)).CanTake (f hi lo)) ∧ (at3 .watch).LockPasses 2 31 ∧
      (at3 .watch).IdFreeBut 410032 (some 2) ∧ w32 (f 0 0).payload 1 = 410032 ∧ (at3 .watch).grades[7] = some grade7 ∧
      u16 (f 0x04 0x4D).payload 7 = grade7.core + grade7.runoutMargin + 1 ∧
      u16 (f 0x04 0x4C).payload 7 = grade7.core + grade7.runoutMargin ∧
      ((at3 .runUp).stand 2).ctx.state.resting = false ∧ ((at3 .watch).stand 2).ctx.state.resting = true ∧
      (given (at3 .watch) z).CanTake z ∧ w32 z.payload 1 = 0 :=
  ⟨fun _ _ => given_can rfl (by decide), passes (by decide), idFree (by decide), by decide, by decide, by decide, by decide,
    by decide, by decide, can (by decide), by decide⟩

theorem test_witness_setModeRun :
    let f : Frame := req 0x60 [1]
    let bad : State := { config3 with line := ⟨0, 31, 3, 3000⟩ }
    let hold : State := { at3 .idle with mode := .hold }
    (given config3 f).CanTake f ∧ (given bad f).CanTake f ∧ bad.mode = .config ∧ bad.line.lineMaster = 0 ∧
      config3.mode = .config ∧ config3.line.lineMaster ≠ 0 ∧
      (∀ i, (config3.stand i).record.enabled = true → standInRange (config3.stand i).record = true ∧
        (config3.stand i).record.driveStation ≠ config3.line.lineMaster ∧
        (config3.stand i).record.driveStation ≠ config3.port.station) ∧
      hold.mode = .hold ∧ (at3 .watch).mode = .run ∧
      lastReply (ask (.setModeRun now []) bad f) = some (.badValue, [0]) ∧
      lastReply (ask (.setModeRun now []) config3 f) = some (.accepted, [1]) :=
  ⟨can (by decide), can (by decide), by decide⟩

theorem test_witness_hold :
    let f : Frame := req 0x60 [2]
    let h : Header := ⟨.urgent, 5, 255, 0x11, 0⟩
    let reading (s : State) : State := { s with port := { s.port with reading := .onArrival h } }
    (given (at3 .matched) f).CanTake f ∧ (at3 .matched).mode = .run ∧ ((at3 .matched).stand 2).ctx.state.beforeFire = true ∧
      ({ at3 .idle with mode := .hold } : State).mode = .hold ∧ config3.mode = .config ∧
      (reading (at3 .matched)).port.reading = .onArrival h ∧ h.verb = 0x11 ∧ h.sender = (at3 .matched).line.lineMaster ∧ ([] : List Byte).length = h.length.toNat ∧
      ((run (.lineHold now [] (crcBytes []) []) (reading (at3 .matched))).stand 2).ctx.cause = some .hold ∧
      (run (.lineHold now [] (crcBytes []) []) (reading config3)).mode = .config :=
  ⟨can (by decide), by decide⟩

theorem test_witness_setModeConfig :
    let f : Frame := req 0x60 [0]
    (given config3 f).CanTake f ∧ config3.mode = .config ∧ (at3 .runUp).mode ≠ .config ∧
      ((at3 .runUp).stand 2).ctx.state.resting = false ∧ (∀ i, ((at3 .watch).stand i).ctx.state.resting = true) ∧
      lastReply (ask (.setModeConfig now []) (at3 .runUp) f) = some (.wrongState, [1]) ∧
      ((ask (.setModeConfig now []) (at3 .watch) f).stand 2).ctx.state = .idle :=
  ⟨can (by decide), by decide⟩

theorem test_witness_autoOrders :
    let on : Frame := req 0x61 [3, 1]
    let off : Frame := req 0x61 [3, 2]
    (given config3 on).CanTake on ∧ (at3 .watch).LockPasses 2 31 ∧ config3.mode = .config ∧ (at3 .off).mode ≠ .config ∧
      ((at3 .off).stand 2).ctx.state = .off ∧ ((at3 .idle).stand 2).ctx.state ≠ .off ∧ (given (at3 .watch) off).CanTake off ∧
      on.payload = [BitVec.ofNat 8 ((2 : StandNo).val + 1), 1] ∧ off.payload = [BitVec.ofNat 8 ((2 : StandNo).val + 1), 2] ∧
      lastReply (ask (.standOrderAutoOn now) (at3 .off) on) = some (.wrongState, []) ∧
      ((ask (.standOrderAutoOff now) (at3 .watch) off).stand 2).ctx.state = .idle :=
  ⟨can (by decide), passes (by decide), by decide, by decide, by decide, by decide, can (by decide), by decide⟩

theorem test_witness_spliceNow :
    let f : Frame := req 0x61 [3, 3]
    let slow : State := { at3 .watch with trackers := State.reset.trackers.set 2 { tracker2 with v := 499 } }
    let edge : State := { at3 .watch with trackers := State.reset.trackers.set 2 { tracker2 with v := 500 } }
    (given edge f).CanTake f ∧ edge.LockPasses 2 31 ∧ config3.mode ≠ .run ∧ edge.mode = .run ∧
      (edge.stand 2).ctx.state = .watch ∧ (500 ≤ (edge.tracker 2).v ∧ (edge.tracker 2).state = .tracking ∧
        (edge.tracker 2).lowWindow = false ∧ (edge.stand 2).freshCh.fault = false) ∧
      (slow.tracker 2).v < 500 ∧ (edge.stand 2).queue.head? = some ⟨410022, 7, some 12500, some 55, true⟩ ∧
      edge.port.waitingDrives = [] ∧ ((at3 .matched).stand 2).freshCh.lastPeriod = some 327249 ∧
      ((ask (.standOrderSpliceNow now) edge f).stand 2).ctx.state = .runUp ∧
      lastReply (ask (.standOrderSpliceNow now) slow f) = some (.wrongState, []) ∧
      ((ask (.standOrderSpliceNow now) (at3 .matched) f).stand 2).ctx.missingTabAt = some 414981747 :=
  ⟨can (by decide), passes (by decide), by decide⟩

theorem test_witness_abortOrder :
    let f : Frame := req 0x61 [3, 4]
    (given (at3 .fireSet) f).CanTake f ∧ ((at3 .fireSet).stand 2).ctx.state.beforeFire = true ∧
      ((at3 .cut).stand 2).ctx.state.pastFire = true ∧ ((at3 .stopping).stand 2).ctx.state.splicing = false ∧
      lastReply (ask (.standOrderAbort now) (at3 .cut) f) = some (.tooLate, []) ∧
      ((ask (.standOrderAbort now) (at3 .fireSet) f).log.map fun r => r.cause) = [some .order] :=
  ⟨can (by decide), by decide⟩

theorem test_witness_manualTrack :
    let on : Frame := req 0x61 [3, 5]
    let off : Frame := req 0x61 [3, 6]
    let m := press { stand3 .runUp with loop := { Loop.start with activity := .running, mode := .track, manual := true } }
    (given m on).CanTake on ∧ (given m off).CanTake off ∧ m.LockPasses 2 31 ∧ (m.stand 2).loop.manual = true ∧
      ((at3 .matched).stand 2).loop.manual = false ∧ m.mode = .run ∧ config3.mode ≠ .run ∧
      ((at3 .fireWait).stand 2).ctx.state = .fireWait ∧
      ((ask (.standOrderManualTrackOff now) m off).stand 2).loop.mode = .acquire ∧
      ((ask (.standOrderManualTrackOn now) (at3 .matched) on).stand 2).loop.manual = true ∧
      lastReply (ask (.standOrderManualTrackOn now) (at3 .fireWait) on) = some (.wrongState, []) :=
  ⟨can (by decide), can (by decide), passes (by decide), by decide⟩

theorem test_witness_controlLocks :
    let take : Frame := req 0x62 [3]
    let give : Frame := req 0x63 [3]
    let mine := press { stand3 .watch with lock := some ⟨31, now⟩ }
    let other := press { stand3 .watch with lock := some ⟨40, now⟩ }
    (given (at3 .watch) take).CanTake take ∧ (given mine give).CanTake give ∧ ((at3 .watch).stand 2).lock = none ∧
      (mine.stand 2).lock = some ⟨31, now⟩ ∧ (other.stand 2).lock = some ⟨40, now⟩ ∧
      ((ask (.giveControl now) mine give).stand 2).lock = none ∧
      lastReply (ask (.giveControl now) other give) = some (.locked, [3, 40]) ∧
      lastReply (ask (.takeControl now) other take) = some (.locked, [3, 40]) ∧
      ((run (.lockExpiry now 2) mine).stand 2).lock = none :=
  ⟨can (by decide), can (by decide), by decide⟩

theorem test_witness_clearLatches :
    let f (n : Byte) : Frame := req 0x64 [0, n]
    let g : Frame := req255 0x64 [0, 3]
    let s (latch guard : Bool) := press { stand3 .watch with out := { Output.start guard with latch := latch } }
    let k : Frame := req 0x64 [1, 3, 2, 0, 15]
    (∀ n, (given (s true false) (f n)).CanTake (f n)) ∧ (given (s true false) g).port.rx.head? = some g ∧
      240 ≤ g.target.toNat ∧ ((s true true).stand 2).out.guardOpen = true ∧ ((s true false).stand 2).out.latch = true ∧
      ((s false true).stand 2).out.latch = false ∧
      lastReply (ask (.clearLatchInterlock now) (s true true) (f 3)) = some (.wrongState, []) ∧
      lastReply (ask (.clearLatchInterlock now) (s true true) (f 7)) = some (.badValue, []) ∧
      ((ask (.clearLatchInterlock now) (s true false) (f 3)).stand 2).out.latch = false ∧
      ((ask (.clearLatchInterlock now) (s true false) g).stand 2).out.latch = false ∧
      k.payload = 1 :: BitVec.ofNat 8 ((2 : StandNo).val + 1) :: BitVec.ofNat 8 ([0, 15] : List Byte).length ::
        (([0, 15] : List Byte) ++ []) ∧
      ((ask (.clearLatchEvents now) (press { stand3 .watch with events := 0xFFFF }) k).stand 2).events = 0x7FFE ∧
      lastReply (ask (.clearLatchEvents now) (at3 .watch) (req 0x64 [1, 3, 1, 16])) = some (.badValue, []) :=
  ⟨fun _ => given_can rfl (by decide), by decide⟩

/-- A line sample of 29 bytes: number 45, line time 5,050,000, slot 2 at 52,001,200. -/
def sample45 : List Byte :=
  [45, 0x00, 0x4D, 0x0E, 0x90] ++ b4 0 ++ b4 0 ++ b4 52001200 ++ b4 0 ++ b4 0 ++ b4 0

set_option maxRecDepth 16000 in
theorem test_witness_lineSample :
    let h : Header := ⟨.normal, 5, 255, 0x10, 29⟩
    let s (c : CtxState) : State := { at3 c with port := { (at3 c).port with reading := .onArrival h } }
    let u := run (.lineSample now sample45 (crcBytes sample45) []) (s .runUp)
    (s .runUp).port.reading = .onArrival h ∧ h.verb = 0x10 ∧ h.sender = (s .runUp).line.lineMaster ∧
      (s .runUp).line.lineMaster ≠ 0 ∧ sample45.length = h.length.toNat ∧ sample45.length = 29 ∧
      (s .runUp).slotInUse 2 = true ∧ (s .runUp).slotInUse 3 = false ∧
      (∀ j, j ≠ 2 → (s .runUp).slotInUse ((s .runUp).stand j).record.webSlot = false) ∧
      (((s .runUp).tracker 2).sample 45 5050000 52001200 now 3000).2 = .accepted 10000 ∧
      ((s .runUp).stand 2).loop.activity = .running ∧
      (run (.lineSample now sample45 (crcBytes sample45) [⟨2, .context⟩, ⟨2, .loop⟩]) (s .runUp)).tracker 2 = u.tracker 2 ∧
      (u.tracker 2).anchor = 52001200 ∧ (u.tracker 2).v = 12000 ∧ u.tracker 3 = Tracker.start ∧
      u.port.tx = [⟨.urgent, 23, .reference 2 12012, false, false⟩] := by decide

/-- What a sample of 11,820 mm/s or 480 mm/s does to stand 3: the tie of its two matters, SPEED_LOW, the reacquired tracker in
FIRE_SET, and the loop that RUNUP entry sets running. -/
theorem test_witness_lineSampleHeard :
    let x (c : CtxState) (n : Nat) : State := { at3 c with
      stands := State.reset.stands.set 2 { stand3 c with dRun := n }, clock := now }
    let both (s : State) (dt : Nat) : State := (s.updateReference 2 dt).contextHears 2 (.accepted dt)
    let slow : State := { x .matched 2100 with trackers := State.reset.trackers.set 2 { tracker2 with v := 480 } }
    let aimed : State := press { stand3 .fireSet with out := { Output.start false with pasterAt := some 414062718 } }
    (slow.stand 2).ctx.state.beforeFire = true ∧ (slow.tracker 2).v < 500 ∧
      ((both slow 10000).stand 2).ctx.cause = some .speedLow ∧
      ((both (x .matched 2100) 10000).stand 2).ctx.state = .matched ∧
      ((aimed.contextHears 2 .reacquired).stand 2).ctx.state = .fireWait ∧
      ((aimed.contextHears 2 .reacquired).stand 2).out.pasterAt = none ∧
      (((x .watch 1962).contextHears 2 (.accepted 10000)).stand 2).ctx.state = .runUp ∧
      (((x .watch 1962).contextHears 2 (.accepted 10000)).stand 2).loop = ⟨.running, .acquire, 0, 0, 0, false, false, 0⟩ ∧
      (((x .watch 2100).contextHears 2 (.accepted 10000)).stand 2).ctx.state = .watch := by decide

theorem test_witness_trackerTakes :
    let live (st : TrackState) (v : Nat) : Tracker := { tracker2 with state := st, v := v }
    let vm (p : Pos) (lt : Time) : Int := ((p - tracker2.anchor).toInt * 100000).tdiv (lt - tracker2.lastLineTime).toNat
    ((44 : Byte) - tracker2.lastNumber).toNat = 0 ∧ ((172 : Byte) - tracker2.lastNumber).toNat = 128 ∧
      ((171 : Byte) - tracker2.lastNumber).toNat = 127 ∧ ((5040001 : Time) - tracker2.lastLineTime).toNat = 1 ∧
      ((6040000 : Time) - tracker2.lastLineTime).toNat = 1000000 ∧ vm 52000000 5050000 = 0 ∧ vm 52001208 5050000 = 12080 ∧
      (12080 - (12000 : Int)).natAbs = 3000 * 10000 / 1000000 + 50 ∧
      ((live .tracking 12000).sample 45 5050000 52001208 now 3000).1.v = 12020 ∧
      ((live .acquiring 0).sample 45 5050000 52001208 now 3000).1.v = 12080 ∧
      ((live .coasting 12000).sample 171 5050000 52001200 now 3000).1.state = .tracking ∧
      ((live .lost 0).sample 9 0 7 now 3000).2 = .anchored := by decide

theorem test_witness_trackerRejects :
    let k (n : Nat) : Tracker := { tracker2 with rejectRun := n }
    ((5040000 : Time) - tracker2.lastLineTime).toNat = 0 ∧ ((6040001 : Time) - tracker2.lastLineTime).toNat = 1000001 ∧
      (((51999999 : Pos) - tracker2.anchor).toInt * 100000).tdiv 10000 < 0 ∧
      (((52001209 : Pos) - tracker2.anchor).toInt * 100000).tdiv 10000 = 12090 ∧
      ((k 0).sample 45 5040000 52001200 now 3000).1.rejectRun = 1 ∧
      ((k 1).sample 45 6040001 52001200 now 3000).1.rejectRun = 2 ∧
      ((k 2).sample 45 5050000 52001209 now 3000).2 = .reacquired := by decide

theorem test_witness_silenceTimers :
    let s : State := press { stand3 .fireSet with out := { Output.start false with pasterAt := some 414062718 } }
    let a : State := { s with trackers := s.trackers.set 2 { tracker2 with state := .acquiring } }
    (s.tracker 2).coastingAt = some now ∧ (s.tracker 2).state = .tracking ∧ (a.tracker 2).lostAt = some now ∧
      (a.tracker 2).state = .acquiring ∧ (s.stand 2).record.webSlot = 2 ∧ (s.stand 2).ctx.state.beforeFire = true ∧
      ((run (.coastingExpiry now 2 []) s).stand 2).ctx.state = .fireWait ∧
      ((run (.lostExpiry now 2 []) a).stand 2).ctx.cause = some .trackLost ∧
      hasEvent ((run (.lostExpiry now 2 []) a).stand 2).events .trackLost = true := by decide

theorem test_witness_windowClose :
    let s (n : Nat) : State := { at3 .watch with trackers := State.reset.trackers.set 2 { tracker2 with windowCount := n } }
    ((s 3).tracker 2).windowAt = some now ∧ ((run (.windowClose now 2 []) (s 3)).tracker 2).lowWindow = false ∧
      ((run (.windowClose now 2 []) (s 2)).tracker 2).lowWindow = true ∧
      hasEvent ((run (.windowClose now 2 []) (s 2)).stand 2).events .samplesLow = true := by decide

theorem test_witness_position :
    let lost : Tracker := { tracker2 with state := .lost, v := 0 }
    (Tracker.start.state = .none ∧ Tracker.start.v = 0 ∧ Tracker.start.anchor = 0) ∧ (lost.state = .lost ∧ lost.v = 0) ∧
      lost.position now = 52000000 ∧ Tracker.start.position now = 0 := by decide

theorem test_witness_pulseInput :
    let c (p : Option PendingChange) (n : Nat) (f : Bool) : PulseChannel :=
      { PulseChannel.start false with input := p.isSome, change := p, state := .turning, glitches := n, fault := f }
    let s (c : PulseChannel) : State := press { stand3 .watch with runCh := c }
    ((c none 0 false).input = (c none 0 false).accepted ∧ true ≠ (c none 0 false).input ∧ (c none 0 false).change = none) ∧
      (false ≠ (c (some ⟨5, 100⟩) 6 false).input ∧ (c (some ⟨5, 100⟩) 6 false).change ≠ none) ∧
      (c (some ⟨5, 100⟩) 8 true).fault = true ∧ (c (some ⟨5, 100⟩) 7 false).glitches = 7 ∧
      ((run (.pulseInputChange now 2 .run true) (s (c none 0 false))).stand 2).runCh.change = some ⟨now, 100⟩ ∧
      ((run (.pulseInputChange now 2 .run false) (s (c (some ⟨5, 100⟩) 6 false))).stand 2).runCh.glitches = 7 ∧
      ((run (.pulseInputChange now 2 .run false) (s (c (some ⟨5, 100⟩) 7 false))).stand 2).runCh.fault = true ∧
      hasEvent ((run (.pulseInputChange now 2 .run false) (s (c (some ⟨5, 100⟩) 7 false))).stand 2).events .sensorFault =
        true := by decide

/-- The eighth glitch, and the third rejected period, abort a splice before fire; in CUT they latch SENSOR_FAULT alone. -/
theorem test_witness_sensorFault :
    let c : PulseChannel := { PulseChannel.start false with
      input := true, change := some ⟨413999900, 100⟩, state := .turning, lastMark := some 413980001, glitches := 7
      rejectRun := 2 }
    let s (x : CtxState) : State := press { stand3 x with freshCh := c }
    let glitch (x : CtxState) : Stand := (run (.pulseInputChange now 2 .fresh false) (s x)).stand 2
    let third (x : CtxState) : Stand := (run (.changeAccepted now 2 .fresh true) (s x)).stand 2
    (false ≠ c.input ∧ c.change ≠ none ∧ c.state ≠ .stopped ∧ 7 ≤ c.glitches ∧ c.fault = false) ∧
      (c.accepted = false ∧ c.lastMark = some 413980001 ∧ (now - 413980001).toNat < 20000 ∧ 2 ≤ c.rejectRun) ∧
      ((s .matched).stand 2).ctx.state.beforeFire = true ∧ ((s .cut).stand 2).ctx.state.beforeFire = false ∧
      (glitch .matched).ctx.cause = some .sensorFault ∧ (third .matched).ctx.cause = some .sensorFault ∧
      (glitch .cut).ctx.state = .cut ∧ hasEvent (glitch .cut).events .sensorFault = true ∧
      (third .cut).freshCh.fault = true ∧ hasEvent (third .cut).events .sensorFault = true := by decide

theorem test_witness_marks :
    let c : PulseChannel := (stand3 .watch).runCh
    let x : Stand := { stand3 .off with record := { record3 with enabled := false }, ctx := Context.start }
    let y : Stand := { x with runCh := { x.runCh with accepted := true } }
    (PulseChannel.start false).state = .stopped ∧ c.state ≠ .stopped ∧ c.lastMark = some 413960756 ∧
      ((413980756 : Time) - 413960756).toNat = 20000 ∧ ((413980755 : Time) - 413960756).toNat = 19999 ∧
      ((421960756 : Time) - 413960756).toNat = 8000000 ∧
      c.change = some ⟨413999900, 100⟩ ∧ (413999900 : Time) + BitVec.ofNat 32 100 = now ∧ y.runCh.accepted = true ∧
      x.runCh.accepted = false ∧ x.record.enabled = false ∧ x.ctx.state = .off ∧ x.ctx.auto = false ∧
      ((run (.changeAccepted now 2 .run true) (press x)).stand 2).runCh.lastPeriod = some 39244 ∧
      ((run (.changeAccepted now 2 .run true) (press x)).stand 2).dRun = 1962 := by decide

theorem test_witness_stoppedTimer :
    let s (c : CtxState) : State := press { stand3 c with runCh := (stand3 c).freshCh }
    ((s .watch).stand 2).runCh.stoppedAt = some now ∧ ((s .watch).stand 2).freshCh.stoppedAt = some now ∧
      ((s .fireWait).stand 2).ctx.state = .fireWait ∧ ((s .stopping).stand 2).ctx.state = .stopping ∧
      ((run (.stoppedTimerExpiry now 2 .fresh) (s .fireSet)).stand 2).ctx.cause = some .noTab ∧
      ((run (.stoppedTimerExpiry now 2 .fresh) (s .stopping)).stand 2).ctx.state = .watch ∧
      ((run (.stoppedTimerExpiry now 2 .fresh) (s .watch)).stand 2).vFresh = 0 := by decide

theorem test_witness_conversion :
    let s (c : CtxState) (n : Nat) (k : Fin 12) : State :=
      { press { stand3 c with dancer := ⟨0, true, n⟩ } with scanNext := k }
    ((s .cut 2 8).scanNext.val = 6 + (2 : StandNo).val ∧ (s .cut 2 2).scanNext.val = (2 : StandNo).val) ∧
      ((1200 : BitVec 12).toNat = record3.dancerLow ∧ (2900 : BitVec 12).toNat = record3.dancerHigh) ∧
      ((s .cut 2 2).stand 2).dancer.excursionRun = 2 ∧ ((s .cut 2 2).stand 2).ctx.state.pastFire = true ∧
      ((s .runUp 2 2).stand 2).ctx.state = .runUp ∧ ((s .matched 2 2).stand 2).ctx.state = .matched ∧
      ((run (.conversionCompletion now 1200) (s .cut 2 2)).stand 2).dancer.excursionRun = 0 ∧
      ((run (.conversionCompletion now 2900) (s .cut 2 2)).stand 2).dancer.excursionRun = 0 ∧
      ((run (.conversionCompletion now 2901) (s .cut 2 2)).stand 2).ctx.excursion = true ∧
      ((run (.conversionCompletion now 1199) (s .runUp 2 2)).stand 2).ctx.state = .runUp ∧
      ((run (.conversionCompletion now 1000) (s .cut 2 8)).stand 2).sensor = ⟨1000, true, 5000⟩ ∧
      ((run (.conversionCompletion now 4080) (s .cut 2 8)).stand 2).sensor = ⟨4080, false, 14000⟩ := by decide

theorem test_witness_runningDiameter :
    let s := at3 .watch
    let held := press { stand3 .watch with dRun := 1298 }
    let x := s.stand 2
    (x.record.enabled = true ∧ x.runCh.accepted = false ∧ x.runCh.change = some ⟨413999900, 100⟩ ∧
      x.runCh.state ≠ .stopped ∧ x.runCh.lastMark = some 413960756 ∧ (now - 413960756).toNat = 39244) ∧
      ((s.tracker 2).state = .tracking ∧ 300 ≤ (s.tracker 2).v ∧ x.runCh.fault = false) ∧
      ((held.stand 2).measured = true ∧ (held.stand 2).dRun + 200 < 1499) ∧
      ((run (.changeAccepted now 2 .run true) s).stand 2).dRun = 1499 ∧
      ((run (.changeAccepted now 2 .run true) held).stand 2).dRun = 1298 ∧
      ((run (.changeAccepted now 2 .run true) held).stand 2).measured = false := by decide

/-- At a RUN period, D_run of 1,499 mm: the runout of a grade with core 1,400 in WATCH and MATCHED, and in MATCHED the passage
to FIRE_WAIT, which needs a FRESH period. -/
theorem test_witness_runPeriodActs :
    let s (g : GradeRecord) (x : Stand) : State := { press x with grades := State.reset.grades.set 7 (some g) }
    let out : GradeRecord := { grade7 with core := 1399 }
    let u (g : GradeRecord) (x : Stand) : State := run (.changeAccepted now 2 .run true) (s g x)
    ((stand3 .matched).running ≠ none ∧ (stand3 .matched).runoutFired = false ∧ out.core + out.runoutMargin = 1499 ∧
      1499 ≤ grade7.spliceDiameter) ∧
      ((u out (stand3 .watch)).log.map fun r => r.outcome) = [.runout] ∧
      ((u out (stand3 .watch)).stand 2).ctx.state = .watch ∧
      ((u out (stand3 .matched)).stand 2).ctx.cause = some .runout ∧
      (u out (stand3 .cut)).log = [] ∧ ((u out (stand3 .cut)).stand 2).runoutFired = true ∧
      ((u grade7 (stand3 .matched)).stand 2).ctx.state = .fireWait ∧
      ((u grade7 (stand3 .matched)).stand 2).ctx.missingTabAt = some 414981747 ∧
      ((u grade7 { stand3 .matched with freshCh := PulseChannel.start false }).stand 2).ctx.cause = some .noTab ∧
      ((u { grade7 with spliceDiameter := 1498 } (stand3 .matched)).stand 2).ctx.state = .matched := by decide

/-- At a FRESH period V_f comes from the splice's D_fresh, or from the head reel's outside a splice, or is 0 with no head;
then the loop's matter and the context's are taken in either order. -/
theorem test_witness_freshPeriod :
    let c : PulseChannel := { (stand3 .watch).freshCh with accepted := false, change := some ⟨413999900, 100⟩ }
    let s (x : Stand) : State := press { x with freshCh := c }
    let u (first : Bool) (x : Stand) : Stand := (run (.changeAccepted now 2 .fresh first) (s x)).stand 2
    ((stand3 .watch).record.enabled = true ∧ c.state ≠ .stopped ∧ c.lastMark = some 413672751 ∧
      (now - 413672751).toNat = 327249) ∧
      (u true { stand3 .fireWait with dFresh := 12000 }).vFresh = 11520 ∧
      (u true { stand3 .watch with dFresh := 12000 }).vFresh = 12000 ∧
      (u true { stand3 .noReel with queue := [] }).vFresh = 0 ∧
      (u true (stand3 .fireWait)).ctx.state = .fireSet ∧ (u false (stand3 .fireWait)).ctx.state = .fireSet ∧
      (u true { stand3 .fireWait with loop := ⟨.running, .track, 0, 12012, 8, true, false, 0⟩, dFresh := 12000 }).ctx.state
        = .runUp ∧
      (u false { stand3 .fireWait with loop := ⟨.running, .track, 0, 12012, 8, true, false, 0⟩, dFresh := 12000 }).ctx.state
        = .runUp := by decide

theorem test_witness_loopCorrects :
    let s (m : LoopMode) (c : Int) (n : Nat) (lk : Bool) (vf : Nat) : State :=
      press { stand3 .runUp with vFresh := vf, loop := ⟨.running, m, c, 12000, n, lk, false, 0⟩ }
    ((s .acquire 0 0 false 11880).stand 2).loop.activity = .running ∧ (s .acquire 0 0 false 11880).headGrade 2 = grade7 ∧
      (((s .acquire 0 0 false 11880).loopTab 2).stand 2).loop.correction = 60 ∧
      (((s .acquire 88 2 false 11996).loopTab 2).stand 2).loop.lockCount = 3 ∧
      (((s .acquire 96 7 false 11970).loopTab 2).stand 2).loop.locked = true ∧
      (((s .acquire 96 7 false 11970).loopTab 2).stand 2).ctx.state = .matched ∧
      (((s .track 0 8 true 11909).loopTab 2).stand 2).loop.locked = false ∧
      (((s .track 0 8 true 11910).loopTab 2).stand 2).loop.locked = true ∧
      (((s .acquire 395 0 false 11880).loopTab 2).stand 2).loop.correction = 400 := by decide

/-- The context's answer to LOCKED set: TENSION, MATCHED, FIRE_WAIT or NO_TAB; to LOCKED cleared: RUNUP again. -/
theorem test_witness_lockHeard :
    let l (m : LoopMode) (n : Nat) (lk : Bool) : Loop := ⟨.running, m, 0, 12000, n, lk, false, 0⟩
    let s (x : Stand) (vf : Nat) : Stand := ((press { x with vFresh := vf, dRun := 2100 }).loopTab 2).stand 2
    let up : Stand := { stand3 .runUp with loop := l .acquire 7 false }
    let due : Stand := { up with ctx := { up.ctx with early := true } }
    (s up 11970).ctx.state = .matched ∧ (s { up with dancer := ⟨0, true, 3⟩ } 11970).ctx.cause = some .tension ∧
      (s due 11970).ctx.missingTabAt = some 414980747 ∧ (s due 11970).ctx.state = .fireWait ∧
      (s { due with freshCh := PulseChannel.start false } 11970).ctx.cause = some .noTab ∧
      (s { stand3 .fireSet with loop := l .track 8 true } 11909).ctx.state = .runUp ∧
      (s { stand3 .matched with loop := l .track 8 true } 11909).ctx.state = .runUp ∧
      (s { stand3 .cut with loop := l .track 8 true } 11909).ctx.state = .cut := by decide

set_option maxRecDepth 16000 in
theorem test_witness_referenceRamps :
    let s (r : Nat) (tx : List TxEntry) : State :=
      { press { stand3 .runUp with loop := ⟨.running, .acquire, 60, r, 0, false, false, 0⟩ } with
        port := { (at3 .runUp).port with tx := tx } }
    let e : TxEntry := ⟨.urgent, 23, .reference 2 9, false, false⟩
    let full : List TxEntry := List.replicate 12 ⟨.urgent, 23, .release 4, false, false⟩
    (((s 0 [e]).stand 2).loop.reference = 0 ∧ (e.begun = false ∧ e.body = .reference 2 9) ∧ full.length = 12 ∧
      (∀ e ∈ full, e.isReference 2 = false)) ∧
      ((s 0 [e]).updateReference 2 10000).port.tx.map (fun e => e.body) = [.reference 2 15] ∧
      ((s 11990 []).updateReference 2 10000).port.tx.map (fun e => e.body) = [.reference 2 12005] ∧
      (((s 12050 []).updateReference 2 10000).stand 2).loop.reference = 12060 ∧
      (((s 0 full).updateReference 2 10000).stand 2).loop.reference = 0 :=
  ⟨by decide, by decide +kernel, by decide +kernel, by decide, by decide⟩

theorem test_witness_prediction :
    let s (v d : Nat) : State :=
      { press { stand3 .watch with dRun := d } with trackers := State.reset.trackers.set 2 { tracker2 with v := v } }
    ((s 12000 1962).stand 2).ctx.state = .watch ∧
      ((s 12000 1962).stand 2).queue.head? = some ⟨410022, 7, some 12500, some 55, true⟩ ∧
      ((s 12000 1962).stand 2).running = some ⟨410021, 7⟩ ∧ 0 < ((s 12000 1962).grade 7).caliper ∧
      0 < ((s 12000 1962).grade 7).runUpRate ∧ (s 12000 1962).port.waitingDrives = [] ∧
      ((s 299 1962).tracker 2).v < 300 ∧ 300 ≤ ((s 300 9800).tracker 2).v ∧
      (((s 299 1500).contextHears 2 (.accepted 1)).stand 2).ctx.prewarn = false ∧
      (((s 300 9800).contextHears 2 (.accepted 1)).stand 2).ctx.prewarn = false ∧
      (((s 300 1500).contextHears 2 (.accepted 1)).stand 2).ctx.prewarn = true ∧
      (((s 499 1500).contextHears 2 (.accepted 1)).stand 2).ctx.state = .watch ∧
      (((s 500 1500).contextHears 2 (.accepted 1)).stand 2).ctx.state = .runUp := by decide

theorem test_witness_pasterAndKnife :
    let s : State := { at3 .fireWait with trackers := State.reset.trackers.set 2 { tracker2 with v := 500 } }
    (s.stand 2).queue.head? = some ⟨410022, 7, some 12500, some 55, true⟩ ∧ (s.stand 2).ctx.state = .fireWait ∧
      (s.stand 2).loop.locked = true ∧ (s.tracker 2).state = .tracking ∧ (s.stand 2).out.latch = false ∧
      500 ≤ (s.tracker 2).v ∧ 0 < (s.tracker 2).v ∧
      ((s.contextTab 2 327249).stand 2).ctx.state = .fireSet ∧
      ((s.contextTab 2 20000).stand 2).out.pasterAt ≠ none ∧
      ((s.setKnife 2).stand 2).ctx.tailShort = true := by decide

/-- A tab mark in FIRE_SET re-arms both timers; in FIRE_WAIT with the latch set it re-arms the missing-tab timer alone. -/
theorem test_witness_tabMarks :
    let aimed : State := press { stand3 .fireSet with out := { Output.start false with pasterAt := some 414000001 } }
    let barred : State := press { stand3 .fireWait with out := { Output.start true with latch := true } }
    ((aimed.contextTab 2 327249).stand 2).out.pasterAt = some 414061718 ∧
      ((aimed.contextTab 2 327249).stand 2).ctx.missingTabAt = some 414980747 ∧
      ((aimed.contextTab 2 327249).stand 2).ctx.state = .fireSet ∧
      ((barred.contextTab 2 327249).stand 2).ctx.state = .fireWait ∧
      ((barred.contextTab 2 327249).stand 2).ctx.missingTabAt = some 414980747 ∧
      ((barred.contextTab 2 327249).stand 2).out.pasterAt = none ∧
      (((press (stand3 .matched)).contextTab 2 327249).stand 2) = stand3 .matched := by decide

/-- The knife delay as the paster fires, at the limits of R112. -/
theorem test_witness_pasterFires :
    let s (v p k l : Nat) : State := { press { stand3 .fireSet with
        record := { record3 with pasterLatency := p, knifeLatency := k, knifePath := l }
        out := { Output.start false with pasterAt := some now } } with
      trackers := State.reset.trackers.set 2 { tracker2 with v := v } }
    let u (v p k l : Nat) : Stand := (run (.pasterTimerExpiry now 2) (s v p k l)).stand 2
    (u 2000 5000 100000 40).out.knifeAt = some now ∧ (u 2000 5000 100000 40).ctx.tailLong = false ∧
      (u 2000 5000 100000 39).out.knifeAt = some now ∧ (u 2000 5000 100000 39).ctx.tailLong = true ∧
      hasEvent (u 2000 5000 100000 39).events .tailLong = true ∧
      (u 1000 5000 5000 850).out.knifeAt = some 415000000 ∧ (u 1000 5000 5000 850).ctx.tailShort = false ∧
      (u 1000 5000 5000 851).out.knifeAt = some 415000000 ∧ (u 1000 5000 5000 851).ctx.tailShort = true ∧
      hasEvent (u 1000 5000 5000 851).events .tailShort = true := by decide

theorem test_witness_expiries :
    let p : State := press { stand3 .fireSet with out := { Output.start false with pasterAt := some now } }
    let k : State := press { stand3 .pasting with out := { Output.start false with knifeAt := some now } }
    let c (e : Bool) : State :=
      press { stand3 .cut with ctx := { (stand3 .cut).ctx with confirmAt := some now, excursion := e } }
    let w : State := press { stand3 .fireWait with ctx := { (stand3 .fireWait).ctx with missingTabAt := some now } }
    let e : State := press { stand3 .stopping with ctx := { (stand3 .stopping).ctx with stoppingAt := some now } }
    ((p.stand 2).out.pasterAt = some now ∧ (p.stand 2).ctx.state = .fireSet) ∧
      ((k.stand 2).out.knifeAt = some now ∧ (k.stand 2).ctx.state = .pasting) ∧
      ((c true).stand 2).ctx.confirmAt = some now ∧ ((c true).stand 2).ctx.state = .cut ∧
      ((w.stand 2).ctx.missingTabAt = some now ∧ (w.stand 2).ctx.state = .fireWait) ∧
      ((e.stand 2).ctx.stoppingAt = some now ∧ (e.stand 2).ctx.state = .stopping) ∧
      ((run (.confirmTimerExpiry now 2) (c true)).stand 2).ctx.state = .idle ∧
      ((run (.confirmTimerExpiry now 2) (c true)).stand 2).running = none ∧
      ((run (.confirmTimerExpiry now 2) (c false)).stand 2).running = some ⟨410022, 7⟩ ∧
      ((run (.missingTabExpiry now 2) w).stand 2).ctx.cause = some .noTab ∧
      ((run (.stoppingTimerExpiry now 2) e).stand 2).ctx.state = .watch := by decide

theorem test_witness_outputTimers :
    let horn (b : Bool) : Horn := ⟨.prewarn, 2, b, some now, some now, b⟩
    let o (b : Bool) : Output := ⟨none, none, some now, some now, some now, some now, true, true, false, horn b, false, false⟩
    let s (b : Bool) : State := press { stand3 .cut with out := o b }
    ((s true).stand 2).out.pasteEndAt = some now ∧ ((s true).stand 2).out.knifeEndAt = some now ∧
      ((s true).stand 2).out.brakeDelayAt = some now ∧ ((s true).stand 2).out.brakeHoldAt = some now ∧
      ((s true).stand 2).out.horn.halfAt = some now ∧ ((s true).stand 2).out.horn.phaseAt = some now ∧
      ((run (.brakeDelayExpiry now 2) (s true)).stand 2).out.brakeHoldAt = some 422000000 ∧
      ((run (.hornHalfPeriod now 2) (s true)).stand 2).out.horn.halfAt = some 414000417 ∧
      ((run (.prewarnPhase now 2) (s true)).stand 2).out.horn.halfAt = none ∧
      ((run (.prewarnPhase now 2) (s false)).stand 2).out.horn.line = true := by decide

theorem test_witness_guard :
    let s (c : CtxState) (l : Bool) : State := press { stand3 c with out := { Output.start false with latch := l, paste := true } }
    ((s .pasting false).stand 2).out.guardOpen = false ∧ ((s .pasting false).stand 2).out.latch = false ∧
      ((s .pasting true).stand 2).out.latch = true ∧ ((s .fireSet false).stand 2).ctx.state.beforeFire = true ∧
      ((s .cut false).stand 2).ctx.state.beforeFire = false ∧
      ((run (.guardOpen now 2) (s .fireSet false)).stand 2).ctx.cause = some .interlock ∧
      ((run (.guardOpen now 2) (s .pasting false)).log.map fun r => r.outcome) = [.failedInterlock] ∧
      ((run (.guardOpen now 2) (s .pasting false)).stand 2).out.paste = false ∧
      ((run (.guardOpen now 2) (s .cut false)).stand 2).ctx.state = .cut := by decide

theorem test_witness_log :
    let full : State := { at3 .watch with
      log := (List.range 48).map fun k => { (at3 .watch).makeRecord 2 .runout with seq := BitVec.ofNat 16 (92 + k) }
      nextSeq := 140 }
    full.LogLawful ∧ full.log.length = 48 ∧ logged.LogLawful ∧ logged.log.length < 48 ∧
      ((full.writeOutcome 2 .spliced).log.map fun r => r.seq).head? = some 93 ∧
      ((full.writeOutcome 2 .spliced).log.map fun r => r.seq).getLast? = some 140 :=
  ⟨lawful (by decide), by decide, lawful (by decide), by decide⟩

/-- A transmit queue of twelve replies. -/
def full12 : List TxEntry := List.replicate 12 ⟨.normal, 31, .reply 0x40 .accepted [], false, false⟩

set_option maxRecDepth 16000 in
/-- A notice is placed when a slot is free; else it waits, and one that waited already is discarded and its record marked. -/
theorem test_witness_notices :
    let old : Notice := ⟨2, 5, 139, 0, 0, 0, .failedInterlock⟩
    let s (tx : List TxEntry) : State :=
      { logged with port := { logged.port with tx := tx, waitingNotices := [old] } }
    let n : Notice := ⟨2, 5, 140, 0, 0, 410022, .spliced⟩
    (s []).port.tx.length + (s []).port.handlerSlot.toNat < 12 ∧ full12.length = 12 ∧
      ((s []).writeOutcome 2 .spliced).NoticeGiven n ∧ ((s []).writeOutcome 2 .spliced).port.waitingNotices = [old] ∧
      ((s full12).writeOutcome 2 .spliced).port.waitingNotices = [n] ∧
      (((s full12).writeOutcome 2 .spliced).log.map fun r => r.noticeUnacked) = [false, true, false] ∧
      ((s full12).writeOutcome 2 .runout).port = (s full12).port :=
  ⟨by decide, by decide, .inl (by decide), by decide, by decide, by decide, by decide⟩

set_option maxRecDepth 16000 in
/-- A report brought up to date in its place, owed while it is begun or the queue is full, placed in a free slot, and not
sent with report station 0; and the NOISE of a glitch in STOPPED. -/
theorem test_witness_reports :
    let s (tx : List TxEntry) (station : Byte) : State :=
      { at3 .watch with port := { (at3 .watch).port with tx := tx }, line := ⟨5, station, 3, 3000⟩ }
    let rep (begun : Bool) : TxEntry := ⟨.normal, 31, .report 2 .off 0, begun, false⟩
    let u (tx : List TxEntry) (station : Byte) : State := (s tx station).raise 2 .noise
    let bodies (x : State) : List TxBody := x.port.tx.map fun e => e.body
    let c : PulseChannel := { PulseChannel.start false with input := true, change := some ⟨5, 100⟩ }
    hasEvent ((s [] 31).stand 2).events .noise = false ∧ full12.length = 12 ∧
      bodies (u [rep false] 31) = [.report 2 .watch 0x200] ∧ (u [rep false] 31).port.owedReports = [] ∧
      bodies (u [rep true] 31) = [.report 2 .off 0] ∧ (u [rep true] 31).port.owedReports = [2] ∧
      (u full12 31).port.owedReports = [2] ∧ bodies (u [] 31) = [.report 2 .watch 0x200] ∧ bodies (u [] 0) = [] ∧
      (u [] 0).port.owedReports = [] ∧ ((u [] 0).raise 2 .noise) = u [] 0 ∧
      hasEvent ((run (.pulseInputChange now 2 .run false) (press { stand3 .watch with runCh := c })).stand 2).events .noise
        = true := by decide

set_option maxRecDepth 16000 in
theorem test_witness_admission :
    let h (cl : FrameClass) (tg v len : Byte) : Header := ⟨cl, 31, tg, v, len⟩
    let s (r : Reading) (n : Nat) : State :=
      { at3 .watch with port := { (at3 .watch).port with reading := r, rx := List.replicate n (req 0x40 []) } }
    let end_ (n : Nat) (h : Header) : Port := (run (.headerCheckEnd now h (headerCheck h)) (s .header n)).port
    (s .header 11).port.reading = .header ∧ (h .normal 12 0x40 40).length.toNat = 40 ∧
      end_ 11 (h .normal 12 0x40 40) = { (s .header 11).port with
        reading := .request (h .normal 12 0x40 40) true, headerAck := true
        runs := LineRuns.read ⟨1, 0⟩ (headerBits (h .normal 12 0x40 40) (headerCheck (h .normal 12 0x40 40))) } ∧
      (end_ 12 (h .normal 12 0x40 0)).reading = .none ∧ (end_ 15 (h .urgent 12 0x40 0)).headerAck = true ∧
      (end_ 16 (h .urgent 255 0x40 0)).reading = .request (h .urgent 255 0x40 0) false ∧
      (end_ 0 (h .normal 12 0x40 41)).reading = .none ∧ (end_ 0 ⟨.normal, 5, 12, 0x10, 29⟩).reading =
        .onArrival ⟨.normal, 5, 12, 0x10, 29⟩ ∧ (end_ 0 ⟨.normal, 31, 12, 0x10, 29⟩).reading = .none ∧
      (run (.requestFrame now [3] (crcBytes [3])) (s (.request (h .normal 12 0x41 1) true) 0)).port.rx = [req 0x41 [3]] ∧
      (run (.requestFrame now [3] 0) (s (.request (h .normal 12 0x41 1) true) 0)).port.rx = [] := by decide

/-- A transmit queue: a normal reply, an urgent release and an urgent reference of stand 3, the last begun or not. -/
def queue3 (begun : Bool) : List TxEntry :=
  [⟨.normal, 31, .reply 0x40 .accepted [], false, false⟩, ⟨.urgent, 23, .release 4, false, false⟩,
    ⟨.urgent, 23, .reference 2 12012, begun, false⟩]

/-- The REFERENCE of stand 3 as the part sends it. -/
def frame3 : Frame := ⟨.urgent, 12, 23, 0x20, [1, 3, 0x2E, 0xEC]⟩

/-- The press sending the last entry of that queue, its contest won or lost to line master 5. -/
def sending3 (won : Bool) (c : CtxState) (n : Nat) : State :=
  { press { stand3 c with loop := { (stand3 c).loop with noAckRun := n } } with
    port := { (at3 c).port with
      bus := .busy, runs := ⟨1, 0⟩, tx := queue3 true
      sending := some (frame3.contend (if won then [⟨.normal, 31⟩] else [⟨.urgent, 5⟩])) } }

theorem test_witness_transmitBegin :
    let s (tx : List TxEntry) : State := { at3 .watch with port := { (at3 .watch).port with tx := tx } }
    let u (rivals : List Contestant) : State := run (.transmitBegin ⟨now, rivals⟩) (s (queue3 false))
    (s (queue3 false)).port.bus = .idle ∧ (s (queue3 false)).port.sending = none ∧
      (∀ a ∈ (queue3 false).take 1, a.begun = false → a.cls = .normal) ∧
      ((u []).port.tx.map fun e => e.begun) = [false, true, false] ∧
      ((u []).port.sending.map fun x => (x.frame.payload, x.won)) = some ([3, 5, 0, 0], true) ∧
      ((u [⟨.urgent, 5⟩, ⟨.normal, 31⟩]).port.sending.map fun x => (x.contest.length, x.won)) = some (6, false) ∧
      ((run (.transmitBegin ⟨now, []⟩) (s ((queue3 false).take 1))).port.tx.map fun e => e.begun) = [true] := by decide

theorem test_witness_lostArbitration :
    let s := sending3 false .runUp 0
    let young (b : TxBody) (dead : Bool) : State := { s with port := { s.port with
      tx := [⟨.urgent, 23, .reference 2 9, true, dead⟩, ⟨.normal, 31, b, false, false⟩] } }
    let rep (owed : List StandNo) : State := { s with port := { s.port with
      tx := [⟨.normal, 31, .report 2 .off 0, true, false⟩], owedReports := owed } }
    let won := sending3 true .runUp 0
    (s.port.sending.map fun x => x.won) = some false ∧ (queue3 true).map (fun e => e.begun) = [false, false, true] ∧
      s.NothingWaits ∧ (won.port.sending.map fun x => x.won) = some true ∧
      (run (.lostArbitration now) won).port = won.port ∧ (run (.lostArbitration now) s).port.runs = ⟨6 + 1, 0⟩ ∧
      ((run (.lostArbitration now) s).port.tx.map fun e => e.begun) = [false, false, false] ∧
      ((run (.lostArbitration now) (young (.reference 2 15) false)).port.tx.map fun e => e.body) = [.reference 2 15] ∧
      ((run (.lostArbitration now) (young (.release 4) true)).port.tx.map fun e => e.body) = [.release 4] ∧
      ((run (.lostArbitration now) (rep [2])).port.tx.map fun e => e.body) = [.report 2 .runUp 0] ∧
      (run (.lostArbitration now) (rep [2])).port.owedReports = [] ∧
      ((run (.lostArbitration now) (rep [])).port.tx.map fun e => e.body) = [.report 2 .off 0] :=
  ⟨by decide, by decide, ⟨rfl, rfl, rfl, fun _ h => by cases h⟩, by decide⟩

set_option maxRecDepth 16000 in
theorem test_witness_transmitOutcome :
    let s := sending3 true .runUp
    let with_ (b : TxBody) : State :=
      { s 0 with port := { (s 0).port with tx := [⟨.urgent, 23, b, true, false⟩] }, log := logged.log }
    let n : Notice := ⟨2, 5, 139, 0, 0, 0, .spliced⟩
    let lost := sending3 false .runUp 0
    let bad : LineEnd := .bitError true 46
    (((s 2).port.sending.map fun x => (x.frame, x.won)) = some (frame3, true) ∧ (s 2).NothingWaits) ∧
      ((s 2).stand 2).loop.activity ≠ .stopped ∧ ((s 2).stand 2).loop.noAckRun = 2 ∧
      (frame3.readBits true false).length = 92 ∧ (frame3.readBits false false).length = 46 ∧
      ((run (.transmitOutcome now (.ended true true)) (s 2)).stand 2).loop.noAckRun = 0 ∧
      ((run (.transmitOutcome now (.bitError false 9)) (s 1)).stand 2).loop.noAckRun = 2 ∧
      ((run (.transmitOutcome now (.bitError true 90)) (s 1)).stand 2).loop.noAckRun = 2 ∧
      (run (.transmitOutcome now (.bitError true 8)) (s 1)).port = (s 1).port ∧
      (run (.transmitOutcome now (.bitError true 91)) (s 1)).port = (s 1).port ∧
      (run (.transmitOutcome now (.ended true true)) lost).port = lost.port ∧
      ((run (.transmitOutcome now (.ended true false)) (s 2)).stand 2).ctx.cause = some .driveFault ∧
      ((run (.transmitOutcome now (.ended true false)) (sending3 true .cut 2)).stand 2).ctx.state = .cut ∧
      ((run (.transmitOutcome now bad) (with_ (.notice n))).log.map fun r => r.noticeUnacked) = [false, true] ∧
      hasEvent ((run (.transmitOutcome now bad) (with_ (.release 2))).stand 2).events .driveFault = true ∧
      (run (.transmitOutcome now bad) (with_ (.reply 0x40 .accepted []))).port.tx = [] :=
  ⟨⟨by decide, ⟨rfl, rfl, rfl, fun _ h => by cases h⟩⟩, by decide⟩

set_option maxRecDepth 16000 in
/-- The slot of a sent reply goes to the drive order, then the notice, then the handler, then the owed report; station 0
declines, and a stand whose report stands in the queue is passed over. -/
theorem test_witness_slotArbiter :
    let reply : TxEntry := ⟨.normal, 31, .reply 0x40 .accepted [], true, false⟩
    let rep : TxEntry := ⟨.normal, 31, .report 4 .off 0, false, false⟩
    let n : Notice := ⟨1, 5, 139, 0, 0, 0, .spliced⟩
    let s (drives : List PendingDrive) (notices : List Notice) (rx : List Frame) (station : Byte) : State :=
      { sending3 true .cut 0 with
        line := ⟨5, station, 3, 3000⟩
        port := { (sending3 true .cut 0).port with
          tx := [rep, reply], rx := rx, waitingDrives := drives, waitingNotices := notices, owedReports := [4, 2] } }
    let u (x : State) : Port := (run (.transmitOutcome now (.ended true true)) x).port
    let youngest (p : Port) : Option TxBody := p.tx.getLast?.map fun e => e.body
    ([rep].length + ([] : List TxEntry).length + false.toNat < 12 ∧ (4 : StandNo) ∈ ([4, 2] : List StandNo) ∧
      ∃ a ∈ [rep], ∃ c v, a.body = .report 4 c v) ∧
      youngest (u (s [⟨2, .release⟩] [n] [] 31)) = some (.release 2) ∧
      youngest (u (s [] [n] [] 31)) = some (.notice n) ∧
      ((u (s [] [] [req 0x40 []] 31)).handlerSlot = true ∧ (u (s [] [] [req 0x40 []] 31)).tx = [rep]) ∧
      youngest (u (s [] [] [] 31)) = some (.report 2 .cut 0) ∧ (u (s [] [] [] 31)).owedReports = [4] ∧
      ((u (s [] [] [] 0)).owedReports = [] ∧ (u (s [] [] [] 0)).tx = [rep]) :=
  ⟨⟨by decide, by decide, _, List.mem_singleton.2 rfl, _, _, rfl⟩, by decide⟩

theorem test_witness_busState :
    let s (b : BusState) (r : Reading) (n : LineRuns) : State :=
      { at3 .fireWait with port := { (at3 .fireWait).port with bus := b, reading := r, runs := n } }
    let stuck (x : State) : State := run (.stuck ⟨now, [false]⟩ [2]) x
    (s .busy .header ⟨0, 0⟩).port.sending = none ∧ (s .busy .header ⟨0, 0⟩).port.bus ≠ .idle ∧
      (s .idle .none ⟨0, 0⟩).port.bus = .idle ∧ (s .busy .header ⟨0, 0⟩).port.reading ≠ .none ∧
      (s .busy .header ⟨0, 0⟩).port.bus ≠ .stuck ∧
      (run (.busIdle ⟨now, List.replicate 11 true⟩) (s .stuck .none ⟨251, 0⟩)).port.bus = .idle ∧
      (run (.busIdle ⟨now, List.replicate 10 true⟩) (s .stuck .none ⟨251, 0⟩)).port.bus = .stuck ∧
      (run (.startMarkRead now) (s .idle .none ⟨0, 11⟩)).port.reading = .header ∧
      (run (.startMarkRead now) (s .idle .none ⟨0, 11⟩)).port.runs = ⟨1, 0⟩ ∧
      (run (.receptionAbandoned ⟨now, [true, true]⟩) (s .busy .header ⟨1, 0⟩)).port.reading = .none ∧
      (run (.receptionAbandoned ⟨now, [true, false]⟩) (s .busy .header ⟨1, 0⟩)).port.reading = .header ∧
      ((stuck (s .busy .header ⟨250, 0⟩)).stand 2).ctx.cause = some .driveFault ∧
      ((stuck (s .busy .header ⟨250, 0⟩)).stand 1) = State.reset.stand 1 ∧
      ((stuck (s .busy .header ⟨249, 0⟩)).stand 2).ctx.state = .fireWait ∧
      (run (.stuck ⟨now, [true, false]⟩ [2]) (s .busy .header ⟨250, 0⟩)).port.bus = .busy := by decide

theorem test_witness_standsKeepApart :
    ownStand (.guardOpen now 2) = some 2 ∧
      exec (.guardOpen now 2) (at3 .fireSet) = .next (run (.guardOpen now 2) (at3 .fireSet)) ∧
      ownStand (.askStatus now) = none := ⟨rfl, rfl, rfl⟩

/-- A state in the middle of a splice, with commands waiting, obeys every law that a step keeps. -/
def busy3 : State := { at3 .fireSet with pending := [.guardOpen now 2] }

theorem test_witness_laws :
    busy3.WithinCapacity ∧ busy3.GradesInRange ∧ busy3.RecordsInRange ∧ busy3.LineInRange ∧ busy3.AddressesInRange ∧
      busy3.TrackersInRange ∧ busy3.ReadyOnHeadAlone ∧ busy3.ContextsLawful ∧ busy3.OutputsSafe ∧ busy3.LogLawful ∧
      busy3.HoldersIndividual ∧ step busy3 = .next (run (.guardOpen now 2) (at3 .fireSet)) := by
  refine ⟨by unfold State.WithinCapacity; decide, ?_, by unfold State.RecordsInRange; decide,
    by unfold State.LineInRange; decide, by unfold State.AddressesInRange; decide,
    by unfold State.TrackersInRange; decide, by unfold State.ReadyOnHeadAlone; decide, ?_,
    by unfold State.OutputsSafe; decide, lawful (by decide), ?_, rfl⟩
  · have h : ∀ g : Fin 32, (busy3.grades[g]).all gradeInRange = true := by decide
    intro g r hr
    have := h g
    rw [hr] at this
    exact this
  · have h : ∀ i : StandNo, ((busy3.stand i).ctx.state.resting = true → (busy3.stand i).ctx.state = busy3.restState i) ∧
        (busy3.mode = .config → (busy3.stand i).ctx.state = .off ∨ (busy3.stand i).ctx.state = .idle) ∧
        ((busy3.stand i).ctx.state.splicing = true → (busy3.stand i).queue.head?.any (fun r => r.ready) = true) ∧
        ((busy3.stand i).ctx.state.resting = false → (busy3.stand i).record.enabled = true) ∧
        ((busy3.stand i).ctx.state = .off → (busy3.stand i).ctx.auto = false) := by decide
    intro i
    obtain ⟨h1, h2, h3, h4, h5⟩ := h i
    refine ⟨h1, h2, fun hs => ?_, h4, h5⟩
    have h6 := h3 hs
    cases hq : (busy3.stand i).queue.head? with
    | none => rw [hq] at h6; cases h6
    | some r => rw [hq] at h6; exact ⟨r, rfl, h6⟩
  · have h : ∀ i : StandNo, (busy3.stand i).lock = none := by decide
    refine ⟨fun i l hl => ?_, fun f hf => ?_, fun b hb => ?_⟩
    · rw [h i] at hl
      cases hl
    · cases hf
    · cases hb

end Sys2Proof.Tests
end

section
/-! SUPPORT. No operation of a splice, of the sensing or of the timers writes a stand's record or its control lock. -/

namespace Sys2Proof

namespace Machine

namespace State

/-- A stand's record with its control lock: what only requests, changes of mode, power-on and the lock's expiry write. -/
def recordAndLock (s : State) (j : StandNo) : StandRecord × Option ControlLock := ((s.stand j).record, (s.stand j).lock)

/-- States with the same stands have the same records and locks. -/
theorem recordAndLock_congr {s t : State} (h : ∀ j, t.stand j = s.stand j) : t.recordAndLock = s.recordAndLock :=
  funext fun j => by rw [recordAndLock, h j]; rfl

/-- A change of one stand that keeps its record and its lock keeps the records and locks of all. -/
@[simp] theorem recordAndLock_modStand (s : State) (i : StandNo) (f : Stand → Stand)
    (h : ∀ x, (f x).record = x.record ∧ (f x).lock = x.lock) : (s.modStand i f).recordAndLock = s.recordAndLock := by
  funext j
  obtain ⟨hr, hl⟩ := h (s.stand i)
  by_cases e : i = j
  · subst e
    simp [recordAndLock, hr, hl]
  · simp [recordAndLock, e]

@[simp] theorem recordAndLock_modCtx (s : State) (i : StandNo) (f : Context → Context) :
    (s.modCtx i f).recordAndLock = s.recordAndLock := recordAndLock_modStand s i _ fun _ => ⟨rfl, rfl⟩

@[simp] theorem recordAndLock_modLoop (s : State) (i : StandNo) (f : Loop → Loop) :
    (s.modLoop i f).recordAndLock = s.recordAndLock := recordAndLock_modStand s i _ fun _ => ⟨rfl, rfl⟩

@[simp] theorem recordAndLock_modOut (s : State) (i : StandNo) (f : Output → Output) :
    (s.modOut i f).recordAndLock = s.recordAndLock := recordAndLock_modStand s i _ fun _ => ⟨rfl, rfl⟩

@[simp] theorem recordAndLock_modPort (s : State) (f : Port → Port) :
    (s.modPort f).recordAndLock = s.recordAndLock := rfl

theorem TxOnly.recordAndLock {s t : State} (h : TxOnly s t) : t.recordAndLock = s.recordAndLock :=
  recordAndLock_congr h.stand

/-! ### Moves of a context -/

@[simp] theorem recordAndLock_raise (s : State) (i : StandNo) (k : EventKind) :
    (s.raise i k).recordAndLock = s.recordAndLock := by
  unfold raise
  split
  · rfl
  · exact (bringUpReport_txOnly _ i).recordAndLock.trans (recordAndLock_modStand s i _ fun _ => ⟨rfl, rfl⟩)

@[simp] theorem recordAndLock_stopLoop (s : State) (i : StandNo) :
    (s.stopLoop i).recordAndLock = s.recordAndLock := by
  unfold stopLoop
  rw [(withdrawReferences_txOnly _ i).recordAndLock, recordAndLock_modLoop]

@[simp] theorem recordAndLock_queueDrive (s : State) (i : StandNo) (k : DriveKind) :
    (s.queueDrive i k).recordAndLock = s.recordAndLock := (queueDrive_txOnly s i k).recordAndLock

@[simp] theorem recordAndLock_writeOutcome (s : State) (i : StandNo) (o : SpliceOutcome) :
    (s.writeOutcome i o).recordAndLock = s.recordAndLock :=
  recordAndLock_congr (stand_writeOutcome s i o)

@[simp] theorem recordAndLock_markUnacked (s : State) (n : SeqNo) :
    (s.markUnacked n).recordAndLock = s.recordAndLock := rfl

@[simp] theorem recordAndLock_chooseHorn (s : State) (i : StandNo) :
    (s.chooseHorn i).recordAndLock = s.recordAndLock := by
  unfold chooseHorn
  dsimp only
  split
  · rfl
  · exact recordAndLock_modOut s i _

@[simp] theorem recordAndLock_enterState (s : State) (i : StandNo) (c : CtxState) :
    (s.enterState i c).recordAndLock = s.recordAndLock := by simp [enterState]

@[simp] theorem recordAndLock_setPrewarn (s : State) (i : StandNo) (b : Bool) :
    (s.setPrewarn i b).recordAndLock = s.recordAndLock := by simp [setPrewarn]

@[simp] theorem recordAndLock_risePrewarn (s : State) (i : StandNo) :
    (s.risePrewarn i).recordAndLock = s.recordAndLock := by
  unfold risePrewarn
  split <;> simp

@[simp] theorem recordAndLock_enterRest (s : State) (i : StandNo) :
    (s.enterRest i).recordAndLock = s.recordAndLock := by simp [enterRest]

@[simp] theorem recordAndLock_settle (s : State) (i : StandNo) :
    (s.settle i).recordAndLock = s.recordAndLock := by
  unfold settle
  split <;> simp

@[simp] theorem recordAndLock_clearHeadReady (s : State) (i : StandNo) :
    (s.clearHeadReady i).recordAndLock = s.recordAndLock :=
  recordAndLock_modStand s i _ fun _ => ⟨rfl, rfl⟩

@[simp] theorem recordAndLock_abort (s : State) (i : StandNo) (c : AbortCause) :
    (s.abort i c).recordAndLock = s.recordAndLock := by simp [abort]

@[simp] theorem recordAndLock_abortBeforeFire (s : State) (i : StandNo) (c : AbortCause) :
    (s.abortBeforeFire i c).recordAndLock = s.recordAndLock := by
  unfold abortBeforeFire
  split <;> simp

@[simp] theorem recordAndLock_enterFireWait (s : State) (i : StandNo) :
    (s.enterFireWait i).recordAndLock = s.recordAndLock := by
  unfold enterFireWait
  dsimp only
  split <;> simp

@[simp] theorem recordAndLock_lockSet (s : State) (i : StandNo) :
    (s.lockSet i).recordAndLock = s.recordAndLock := by
  unfold lockSet enterMatched
  dsimp only
  repeat' split
  all_goals simp

@[simp] theorem recordAndLock_lockCleared (s : State) (i : StandNo) :
    (s.lockCleared i).recordAndLock = s.recordAndLock := by
  unfold lockCleared
  split <;> simp

@[simp] theorem recordAndLock_leaveFireSet (s : State) (i : StandNo) :
    (s.leaveFireSet i).recordAndLock = s.recordAndLock := by
  unfold leaveFireSet
  split <;> simp

@[simp] theorem recordAndLock_runoutCheck (s : State) (i : StandNo) :
    (s.runoutCheck i).recordAndLock = s.recordAndLock := by
  unfold runoutCheck announceRunout
  dsimp only
  repeat' split
  all_goals simp

@[simp] theorem recordAndLock_fixFresh (s : State) (i : StandNo) :
    (s.fixFresh i).recordAndLock = s.recordAndLock := by
  unfold fixFresh
  split
  · rfl
  · exact recordAndLock_modStand s i _ fun _ => ⟨rfl, rfl⟩

@[simp] theorem recordAndLock_resetLoop (s : State) (i : StandNo) :
    (s.resetLoop i).recordAndLock = s.recordAndLock := by
  unfold resetLoop killReferences
  dsimp only
  split <;> simp

@[simp] theorem recordAndLock_enterRunUp (s : State) (i : StandNo) :
    (s.enterRunUp i).recordAndLock = s.recordAndLock := by simp [enterRunUp]

@[simp] theorem recordAndLock_forceOff (s : State) (i : StandNo) :
    (s.forceOff i).recordAndLock = s.recordAndLock := recordAndLock_modOut s i _

@[simp] theorem recordAndLock_failInterlock (s : State) (i : StandNo) :
    (s.failInterlock i).recordAndLock = s.recordAndLock := by simp [failInterlock]

@[simp] theorem recordAndLock_swap (s : State) (i : StandNo) :
    (s.swap i).recordAndLock = s.recordAndLock :=
  (recordAndLock_runoutCheck _ i).trans (recordAndLock_modStand s i _ fun _ => ⟨rfl, rfl⟩)

@[simp] theorem recordAndLock_breakWeb (s : State) (i : StandNo) :
    (s.breakWeb i).recordAndLock = s.recordAndLock := recordAndLock_modStand s i _ fun _ => ⟨rfl, rfl⟩

@[simp] theorem recordAndLock_endSplice (s : State) (i : StandNo) :
    (s.endSplice i).recordAndLock = s.recordAndLock := by simp [endSplice]

/-! ### Line samples -/

@[simp] theorem recordAndLock_placeReference (s : State) (i : StandNo) (v : Nat) :
    (s.placeReference i v).recordAndLock = s.recordAndLock := by
  unfold placeReference place
  repeat' split
  all_goals simp

@[simp] theorem recordAndLock_predict (s : State) (i : StandNo) :
    (s.predict i).recordAndLock = s.recordAndLock := by
  unfold predict
  dsimp only
  repeat' split
  all_goals simp

@[simp] theorem recordAndLock_hearMatter (s : State) (b : State) (p : List Byte) (m : Matter) :
    (hearMatter b p m s).recordAndLock = s.recordAndLock := by
  unfold hearMatter loopHears contextHears updateReference
  dsimp only
  repeat' split
  all_goals simp

/-! ### Reel sensing -/

@[simp] theorem recordAndLock_setChannel (s : State) (i : StandNo) (ch : Channel) (c : PulseChannel) :
    (s.setChannel i ch c).recordAndLock = s.recordAndLock :=
  recordAndLock_modStand s i _ fun x => by cases ch <;> exact ⟨rfl, rfl⟩

@[simp] theorem recordAndLock_raiseEnabled (s : State) (i : StandNo) (k : EventKind) :
    (s.raiseEnabled i k).recordAndLock = s.recordAndLock := by
  unfold raiseEnabled
  split <;> simp

@[simp] theorem recordAndLock_updateChannel (s : State) (i : StandNo) (ch : Channel) (c : PulseChannel) :
    (s.updateChannel i ch c).recordAndLock = s.recordAndLock := by
  unfold updateChannel
  dsimp only
  split <;> simp

@[simp] theorem recordAndLock_inputChanges (s : State) (i : StandNo) (ch : Channel) (b : Bool) :
    (s.inputChanges i ch b).recordAndLock = s.recordAndLock := by
  unfold inputChanges
  dsimp only
  repeat' split
  all_goals simp

@[simp] theorem recordAndLock_measureRunning (s : State) (i : StandNo) (p : Nat) :
    (s.measureRunning i p).recordAndLock = s.recordAndLock := by
  unfold measureRunning
  dsimp only
  repeat' split
  all_goals exact recordAndLock_modStand s i _ fun _ => ⟨rfl, rfl⟩

@[simp] theorem recordAndLock_runPeriod (s : State) (i : StandNo) (p : Nat) :
    (s.runPeriod i p).recordAndLock = s.recordAndLock := by
  unfold runPeriod
  dsimp only
  split <;> simp

@[simp] theorem recordAndLock_measureFresh (s : State) (i : StandNo) (p : Nat) :
    (s.measureFresh i p).recordAndLock = s.recordAndLock :=
  recordAndLock_modStand s i _ fun _ => ⟨rfl, rfl⟩

@[simp] theorem recordAndLock_loopTab (s : State) (i : StandNo) :
    (s.loopTab i).recordAndLock = s.recordAndLock := by
  unfold loopTab unlock detectLock
  dsimp only
  repeat' split
  all_goals simp

@[simp] theorem recordAndLock_contextTab (s : State) (i : StandNo) (p : Nat) :
    (s.contextTab i p).recordAndLock = s.recordAndLock := by
  unfold contextTab armPaster
  dsimp only
  repeat' split
  all_goals simp

@[simp] theorem recordAndLock_handOn (s : State) (i : StandNo) (ch : Channel) (p : Nat) (b : Bool) :
    (s.handOn i ch p b).recordAndLock = s.recordAndLock := by
  unfold handOn freshPeriod
  dsimp only
  repeat' split
  all_goals simp

@[simp] theorem recordAndLock_changeHolds (s : State) (i : StandNo) (ch : Channel) (b : Bool) :
    (s.changeHolds i ch b).recordAndLock = s.recordAndLock := by
  unfold changeHolds
  dsimp only
  repeat' split
  all_goals simp

@[simp] theorem recordAndLock_freshStopped (s : State) (i : StandNo) :
    (s.freshStopped i).recordAndLock = s.recordAndLock := by
  unfold freshStopped
  split <;> simp

@[simp] theorem recordAndLock_channelStops (s : State) (i : StandNo) (ch : Channel) :
    (s.channelStops i ch).recordAndLock = s.recordAndLock := by
  unfold channelStops
  dsimp only
  repeat' split
  all_goals simp

@[simp] theorem recordAndLock_convertDancer (s : State) (i : StandNo) (code : BitVec 12) :
    (s.convertDancer i code).recordAndLock = s.recordAndLock := by
  unfold convertDancer announceExcursion
  dsimp only
  repeat' split
  all_goals simp

@[simp] theorem recordAndLock_convertSensor (s : State) (i : StandNo) (code : BitVec 12) :
    (s.convertSensor i code).recordAndLock = s.recordAndLock := recordAndLock_modStand s i _ fun _ => ⟨rfl, rfl⟩

/-! ### The timers of a splice and the guard -/

@[simp] theorem recordAndLock_pasterEnds (s : State) (i : StandNo) :
    (s.pasterEnds i).recordAndLock = s.recordAndLock := by
  unfold pasterEnds firePaster assertPaste takeFigures setKnife
  dsimp only
  repeat' split
  all_goals simp

@[simp] theorem recordAndLock_knifeEnds (s : State) (i : StandNo) :
    (s.knifeEnds i).recordAndLock = s.recordAndLock := by
  unfold knifeEnds fireKnife assertKnife startBrake
  dsimp only
  repeat' split
  all_goals simp

@[simp] theorem recordAndLock_confirmEnds (s : State) (i : StandNo) :
    (s.confirmEnds i).recordAndLock = s.recordAndLock := by
  unfold confirmEnds endBroken endSpliced
  dsimp only
  repeat' split
  all_goals simp

@[simp] theorem recordAndLock_missingTabEnds (s : State) (i : StandNo) :
    (s.missingTabEnds i).recordAndLock = s.recordAndLock := by
  unfold missingTabEnds
  dsimp only
  repeat' split
  all_goals simp

@[simp] theorem recordAndLock_stoppingEnds (s : State) (i : StandNo) :
    (s.stoppingEnds i).recordAndLock = s.recordAndLock := by
  unfold stoppingEnds
  dsimp only
  repeat' split
  all_goals simp

@[simp] theorem recordAndLock_guardOpens (s : State) (i : StandNo) :
    (s.guardOpens i).recordAndLock = s.recordAndLock := by
  unfold guardOpens announceLatch
  dsimp only
  repeat' split
  all_goals simp

@[simp] theorem recordAndLock_handOutcome (s : State) (e : TxEntry) (r : TxOutcome) :
    (s.handOutcome e r).recordAndLock = s.recordAndLock := by
  unfold handOutcome referenceOutcome driveOutcome noticeOutcome
  dsimp only
  repeat' split
  all_goals simp

end State

end Machine

end Sys2Proof
end

section
/-! SUPPORT. What a command may do to the tables and the control locks, and that it keeps them in their ranges (O56). -/

namespace Sys2Proof

namespace Machine

/-- The sender of the frame that a reading follows, its header having been accepted. -/
def Reading.sender : Reading → Option Byte
  | .request h _ => some h.sender
  | .onArrival h => some h.sender
  | .none | .header => Option.none

theorem Reading.sender_unreserved (r : Reading) : r.unreserved.sender = r.sender := by cases r <;> rfl

namespace State

theorem readingSender_eq (s : State) : s.readingSender = s.port.reading.sender := by
  unfold readingSender Reading.sender
  cases s.port.reading <;> rfl

/-! ### The tables untouched -/

/-- From `s` to `t` no table changes, no lock gains a holder, and the port admits no new sender. -/
structure TablesKept (s t : State) : Prop where
  grades : t.grades = s.grades
  line : t.line = s.line
  record : ∀ i, (t.stand i).record = (s.stand i).record
  station : t.port.station = s.port.station
  groups : t.port.groups = s.port.groups
  lock : ∀ i l, (t.stand i).lock = some l → ∃ l', (s.stand i).lock = some l' ∧ l'.holder = l.holder
  rx : t.port.rx ⊆ s.port.rx
  reading : ∀ b, t.port.reading.sender = some b → s.port.reading.sender = some b

theorem TablesKept.refl (s : State) : TablesKept s s :=
  ⟨rfl, rfl, fun _ => rfl, rfl, rfl, fun _ l h => ⟨l, h, rfl⟩, fun _ h => h, fun _ h => h⟩

theorem TablesKept.trans {s t u : State} (h : TablesKept s t) (k : TablesKept t u) : TablesKept s u where
  grades := k.grades.trans h.grades
  line := k.line.trans h.line
  record i := (k.record i).trans (h.record i)
  station := k.station.trans h.station
  groups := k.groups.trans h.groups
  lock i l hl := by
    obtain ⟨l1, h1, e1⟩ := k.lock i l hl
    obtain ⟨l2, h2, e2⟩ := h.lock i l1 h1
    exact ⟨l2, h2, e2.trans e1⟩
  rx _ hf := h.rx (k.rx hf)
  reading b hb := h.reading b (k.reading b hb)

theorem setClock_tablesKept (s : State) (t : Time) : TablesKept s (s.setClock t) :=
  ⟨rfl, rfl, fun _ => rfl, rfl, rfl, fun _ l h => ⟨l, h, rfl⟩, fun _ h => h, fun _ h => h⟩

/-- What touches neither the trackers nor the tables, and no stand's record or lock, keeps the tables. -/
theorem Swept.tablesKept {s t : State} (h : Swept s t) (hr : t.recordAndLock = s.recordAndLock) : TablesKept s t where
  grades := h.grades
  line := h.line
  record i := congrArg Prod.fst (congrFun hr i)
  station := by rw [h.port]
  groups := by rw [h.port]
  lock i l hl := ⟨l, (congrArg Prod.snd (congrFun hr i)).symm.trans hl, rfl⟩
  rx := by
    rw [h.port]
    exact List.Subset.refl _
  reading b hb := by
    rw [h.port] at hb
    exact hb

theorem OwnChange.tablesKept {i : StandNo} {s t : State} (h : OwnChange i s t) (hr : t.recordAndLock = s.recordAndLock) :
    TablesKept s t := h.swept.tablesKept hr

theorem TxOnly.tablesKept {s t : State} (h : TxOnly s t) : TablesKept s t := (h.own 0).tablesKept h.recordAndLock

/-- A change of one stand that keeps its record and gives its lock no new holder keeps the tables. -/
theorem modStand_tablesKept (s : State) (i : StandNo) (f : Stand → Stand) (hr : ∀ x, (f x).record = x.record)
    (hl : ∀ x l, (f x).lock = some l → x.lock = some l) : TablesKept s (s.modStand i f) where
  grades := rfl
  line := rfl
  record j := by
    rw [stand_modStand]
    split
    · rename_i e
      rw [hr, e]
    · rfl
  station := rfl
  groups := rfl
  lock j l h := by
    rw [stand_modStand] at h
    split at h
    · rename_i e
      subst e
      exact ⟨l, hl _ l h, rfl⟩
    · exact ⟨l, h, rfl⟩
  rx := List.Subset.refl _
  reading _ h := h

theorem settle_tablesKept (s : State) (i : StandNo) : TablesKept s (s.settle i) :=
  (settle_own s i).tablesKept (recordAndLock_settle s i)

theorem abort_tablesKept (s : State) (i : StandNo) (c : AbortCause) : TablesKept s (s.abort i c) :=
  (abort_own s i c).tablesKept (recordAndLock_abort s i c)

theorem abortBeforeFire_tablesKept (s : State) (i : StandNo) (c : AbortCause) : TablesKept s (s.abortBeforeFire i c) :=
  (abortBeforeFire_own s i c).tablesKept (recordAndLock_abortBeforeFire s i c)

theorem raise_tablesKept (s : State) (i : StandNo) (k : EventKind) : TablesKept s (s.raise i k) :=
  (raise_own s i k).tablesKept (recordAndLock_raise s i k)

theorem modCtx_tablesKept (s : State) (i : StandNo) (f : Context → Context) : TablesKept s (s.modCtx i f) :=
  (modCtx_own s i f).tablesKept (recordAndLock_modCtx s i f)

theorem modLoop_tablesKept (s : State) (i : StandNo) (f : Loop → Loop) : TablesKept s (s.modLoop i f) :=
  (modLoop_own s i f).tablesKept (recordAndLock_modLoop s i f)

/-- A change of the port that keeps its addresses and admits nobody keeps the tables. -/
theorem modPort_tablesKept (s : State) (f : Port → Port) (hst : (f s.port).station = s.port.station)
    (hg : (f s.port).groups = s.port.groups) (hrx : (f s.port).rx ⊆ s.port.rx)
    (hrd : ∀ b, (f s.port).reading.sender = some b → s.port.reading.sender = some b) : TablesKept s (s.modPort f) :=
  ⟨rfl, rfl, fun _ => rfl, hst, hg, fun _ l h => ⟨l, h, rfl⟩, hrx, hrd⟩

/-- A change of every stand that keeps its record and gives its lock no new holder keeps the tables. -/
theorem mapStands_tablesKept (s : State) (f : StandNo → Stand → Stand) (hr : ∀ i x, (f i x).record = x.record)
    (hl : ∀ i x l, (f i x).lock = some l → ∃ l', x.lock = some l' ∧ l'.holder = l.holder) :
    TablesKept s (s.mapStands f) where
  grades := by rw [mapStands_rest]
  line := by rw [mapStands_rest]
  record i := by rw [mapStands_stand, hr]
  station := by rw [mapStands_rest]
  groups := by rw [mapStands_rest]
  lock i l h := by
    rw [mapStands_stand] at h
    exact hl i _ l h
  rx := by
    rw [mapStands_rest]
    exact List.Subset.refl _
  reading b hb := by
    rw [mapStands_rest] at hb
    exact hb

theorem trackers_tablesKept (s : State) (v : Vector Tracker 6) : TablesKept s { s with trackers := v } :=
  ⟨rfl, rfl, fun _ => rfl, rfl, rfl, fun _ l h => ⟨l, h, rfl⟩, fun _ h => h, fun _ h => h⟩

theorem mapTrackers_tablesKept (s : State) (f : SlotNo → Tracker → Tracker) : TablesKept s (s.mapTrackers f) := by
  rw [mapTrackers_rest]
  exact trackers_tablesKept s _

theorem setTracker_tablesKept (s : State) (k : SlotNo) (x : Tracker) : TablesKept s (s.setTracker k x) :=
  trackers_tablesKept s _

theorem setMode_tablesKept (s : State) (m : Mode) : TablesKept s { s with mode := m } :=
  ⟨rfl, rfl, fun _ => rfl, rfl, rfl, fun _ l h => ⟨l, h, rfl⟩, fun _ h => h, fun _ h => h⟩

theorem forStands_tablesKept (o : List StandNo) (f : StandNo → State → State) (h : ∀ i s, TablesKept s (f i s))
    (s : State) : TablesKept s (forStands o f s) :=
  forStands_keeps o f (TablesKept s) (fun i x hx => hx.trans (h i x)) s (.refl s)

/-! ### The laws of the tables -/

/-- What holds of the tables and the lock holders in `s` holds of them in `t`. -/
structure LawsKept (s t : State) : Prop where
  grades : s.GradesInRange → t.GradesInRange
  records : s.RecordsInRange → t.RecordsInRange
  line : s.LineInRange → t.LineInRange
  addresses : s.AddressesInRange → t.AddressesInRange
  holders : s.HoldersIndividual → t.HoldersIndividual

theorem LawsKept.trans {s t u : State} (h : LawsKept s t) (k : LawsKept t u) : LawsKept s u where
  grades x := k.grades (h.grades x)
  records x := k.records (h.records x)
  line x := k.line (h.line x)
  addresses x := k.addresses (h.addresses x)
  holders x := k.holders (h.holders x)

theorem TablesKept.holders {s t : State} (h : TablesKept s t) (hs : s.HoldersIndividual) : t.HoldersIndividual := by
  obtain ⟨hlock, hrx, hread⟩ := hs
  refine ⟨fun i l hl => ?_, fun f hf => hrx f (h.rx hf), fun b hb => ?_⟩
  · obtain ⟨l', hl', e⟩ := h.lock i l hl
    rw [← e]
    exact hlock i l' hl'
  · rw [readingSender_eq] at hb
    exact hread b ((readingSender_eq s).trans (h.reading b hb))

theorem TablesKept.laws {s t : State} (h : TablesKept s t) : LawsKept s t where
  grades hs g r hg := hs g r (by rw [← h.grades]; exact hg)
  records hs i he := by
    rw [h.record i] at he ⊢
    exact hs i he
  line hs := by
    unfold LineInRange
    rw [h.line]
    exact hs
  addresses hs := by
    unfold AddressesInRange
    rw [h.groups, h.station]
    exact hs
  holders := h.holders

/-! ### The request handler -/

theorem popFrame_tablesKept (s : State) : TablesKept s s.popFrame :=
  modPort_tablesKept s _ rfl rfl (fun _ => List.mem_of_mem_tail) fun _ h => h

theorem returnSlot_tablesKept (s : State) : TablesKept s s.returnSlot := by
  unfold returnSlot
  split
  · exact (TxOnly.mk rfl : TxOnly s (s.modPort fun p => { p with handlerSlot := false })).tablesKept.trans
      (offer_txOnly _).tablesKept
  · exact .refl s

theorem placeReply_tablesKept (s : State) (f : Frame) (r : Result) (d : List Byte) : TablesKept s (s.placeReply f r d) :=
  (TxOnly.mk rfl : TxOnly s (s.placeReply f r d)).tablesKept

theorem refreshLocks_tablesKept (s : State) (b : Byte) : TablesKept s (s.refreshLocks b) := by
  refine mapStands_tablesKept s _ (fun _ _ => rfl) fun i x l h => ?_
  obtain ⟨l', hl', rfl⟩ := Option.map_eq_some_iff.1 h
  exact ⟨l', hl', by split <;> rfl⟩

theorem takeFrame_tablesKept (s : State) (f : Frame) : TablesKept s (s.takeFrame f) :=
  (popFrame_tablesKept s).trans <|
    (TxOnly.mk rfl : TxOnly s.popFrame (s.popFrame.modPort fun p => { p with handlerSlot := true })).tablesKept.trans
      (refreshLocks_tablesKept _ _)

/-- A request row keeps the laws when what it does with a frame of the receive queue does. -/
theorem handle_lawsKept (s : State) (t : Time) (takes : Frame → Bool) (ask : Bool) (body : Frame → State → Answer)
    (h : ∀ f ∈ s.port.rx, ∀ x, TablesKept s x → LawsKept s (body f x).state) :
    LawsKept s ((s.setClock t).handle takes ask body) := by
  have hc := setClock_tablesKept s t
  have hpop : TablesKept s (s.setClock t).popFrame.returnSlot :=
    hc.trans ((popFrame_tablesKept _).trans (returnSlot_tablesKept _))
  unfold handle
  split
  · exact hc.laws
  · rename_i f rest hrx
    have hf : f ∈ s.port.rx := by
      rw [show s.port.rx = f :: rest from hrx]
      exact List.mem_cons_self
    split
    · split
      · split
        · exact (h f hf _ (hc.trans (takeFrame_tablesKept _ f))).trans (placeReply_tablesKept _ _ _ _).laws
        · exact hc.laws
      · split
        · exact hpop.laws
        · exact h f hf _ hpop
    · exact hc.laws

/-- A request row whose answer keeps the tables keeps the laws. -/
theorem handle_lawsKept_of_tables (s : State) (t : Time) (takes : Frame → Bool) (ask : Bool)
    {body : Frame → State → Answer} (h : ∀ f x, TablesKept x (body f x).state) :
    LawsKept s ((s.setClock t).handle takes ask body) :=
  handle_lawsKept s t takes ask body fun f _ x hx => (hx.trans (h f x)).laws

/-- A request row that only reads keeps the laws. -/
theorem handle_lawsKept_of_reads (s : State) (t : Time) (takes : Frame → Bool) (ask : Bool)
    {body : Frame → State → Answer} (h : ∀ f x, (body f x).state = x) :
    LawsKept s ((s.setClock t).handle takes ask body) :=
  handle_lawsKept_of_tables s t takes ask fun f x => by rw [h]; exact .refl x

/-- A request row whose answer keeps the laws keeps them. -/
theorem handle_lawsKept_of_laws (s : State) (t : Time) (takes : Frame → Bool) (ask : Bool)
    {body : Frame → State → Answer} (h : ∀ f x, LawsKept x (body f x).state) :
    LawsKept s ((s.setClock t).handle takes ask body) :=
  handle_lawsKept s t takes ask body fun f _ x hx => hx.laws.trans (h f x)

/-! ### The steps of a request -/

theorem needLength_state {P : State → Prop} {f : Frame} {n : Nat} {s : State} {k : Unit → Answer} (hs : P s)
    (hk : P (k ()).state) : P (needLength f n s k).state := by
  unfold needLength
  split
  · exact hs
  · exact hk

theorem needStand_state {P : State → Prop} {n : Nat} {s : State} {k : StandNo → Answer} (hs : P s)
    (hk : ∀ i, P (k i).state) : P (needStand n s k).state := by
  unfold needStand
  split
  · exact hs
  · exact hk _

theorem needLock_state {P : State → Prop} {f : Frame} {i : StandNo} {s : State} {k : Unit → Answer} (hs : P s)
    (hk : P (k ()).state) : P (needLock f i s k).state := by
  unfold needLock
  split
  · exact hk
  · split
    · exact hk
    · exact hs

theorem answerAskLog_state (f : Frame) (s : State) : (answerAskLog f s).state = s := by
  unfold answerAskLog logAnswer
  refine needLength_state (P := (· = s)) rfl ?_
  dsimp only
  repeat' split
  all_goals rfl

theorem answerAskGrade_state (f : Frame) (s : State) : (answerAskGrade f s).state = s := by
  unfold answerAskGrade
  refine needLength_state (P := (· = s)) rfl ?_
  split <;> rfl

theorem answerAskStand_state (f : Frame) (s : State) : (answerAskStand f s).state = s :=
  needLength_state (P := (· = s)) rfl (needStand_state (P := (· = s)) rfl fun _ => rfl)

theorem answerAskQueue_state (f : Frame) (s : State) : (answerAskQueue f s).state = s :=
  needLength_state (P := (· = s)) rfl (needStand_state (P := (· = s)) rfl fun _ => rfl)

/-! ### Requests that write a table -/

theorem answerPutGrade_lawsKept (f : Frame) (s : State) : LawsKept s (answerPutGrade f s).state := by
  have hs := (TablesKept.refl s).laws
  refine needLength_state hs ?_
  split
  · exact hs
  · rename_i g _
    unfold putGrade
    split
    · rename_i hr
      split
      · exact hs
      · refine { hs with grades := fun h g' r h' => ?_ }
        change (s.grades.set g (some (gradeOfPayload f.payload)))[g'.val] = some r at h'
        rw [Vector.getElem_set] at h'
        split at h'
        · obtain rfl := Option.some.inj h'
          exact hr
        · exact h g' r h'
    · exact hs

theorem replaceRecord_lawsKept (s : State) (i : StandNo) (r : StandRecord) (hr : standInRange r = true) :
    LawsKept s (s.replaceRecord i r) := by
  have hrec : LawsKept s (s.modStand i fun x =>
      { x with record := r, measured := x.measured && r.webSlot == (s.stand i).record.webSlot }) := by
    refine { (TablesKept.refl s).laws with records := fun h j => ?_, holders := fun h => ⟨fun j l => ?_, h.2⟩ }
    · rw [stand_modStand]
      split
      · exact fun _ => hr
      · exact h j
    · rw [stand_modStand]
      split
      · rename_i e
        subst e
        exact h.1 i l
      · exact h.1 j l
  unfold replaceRecord
  dsimp only
  split
  · exact hrec.trans (mapTrackers_tablesKept _ _).laws
  · split
    · exact hrec.trans ((mapTrackers_tablesKept _ _).trans (settle_tablesKept _ i)).laws
    · exact hrec.trans ((mapTrackers_tablesKept _ _).trans
        ((modCtx_tablesKept _ i _).trans (settle_tablesKept _ i))).laws

theorem answerPutStand_lawsKept (f : Frame) (s : State) : LawsKept s (answerPutStand f s).state := by
  have hs := (TablesKept.refl s).laws
  refine needLength_state hs (needStand_state hs fun i => ?_)
  split
  · exact hs
  · unfold putStand
    split
    · rename_i hr
      split
      · exact replaceRecord_lawsKept s i _ hr
      · exact hs
    · exact hs

/-- The checks of R10, spelled out. -/
theorem lineInRange_iff (l : LineSettings) (station : Byte) : lineInRange l station = true ↔
    l.lineMaster.toNat < 240 ∧ l.lineMaster ≠ station ∧ l.reportStation ≠ station ∧ 1 ≤ l.minSamples ∧
      l.minSamples ≤ 10 ∧ 500 ≤ l.rateLimit ∧ l.rateLimit ≤ 10000 := by
  simp [lineInRange, within, and_assoc]

theorem answerPutLine_lawsKept (f : Frame) (s : State) : LawsKept s (answerPutLine f s).state := by
  have hs := (TablesKept.refl s).laws
  refine needLength_state hs ?_
  split
  · unfold putLine
    split
    · rename_i hl
      obtain ⟨hm, -, -, hn⟩ := (lineInRange_iff _ _).1 hl
      have hline : LawsKept s { s with line := lineOfPayload f.payload } := { hs with line := fun _ => ⟨hm, hn⟩ }
      dsimp only [grant]
      split
      · exact hline
      · exact hline.trans (mapTrackers_tablesKept _ _).laws
    · exact hs
  · exact hs

theorem groupNumber_iff (g : Byte) : groupNumber g = true ↔ 240 ≤ g.toNat ∧ g.toNat ≤ 254 := by simp [groupNumber]

theorem answerSetGroups_lawsKept (f : Frame) (s : State) : LawsKept s (answerSetGroups f s).state := by
  have hs := (TablesKept.refl s).laws
  refine needLength_state hs ?_
  split
  · unfold setGroups
    split
    · rename_i hg
      obtain ⟨hn, hall, hnd⟩ := hg
      refine { hs with addresses := fun h => ⟨?_, hnd, ?_, h.2.2.2⟩ }
      · exact Nat.le_trans (List.length_take_le _ _) hn
      · exact fun g hg => (groupNumber_iff g).1 (List.all_eq_true.1 hall g hg)
    · exact hs
  · exact hs

/-! ### Control locks -/

/-- TAKE CONTROL gives a free lock to the sender of the frame, who was an individual station when the frame came in. -/
theorem answerTakeControl_lawsKept {s x : State} {f : Frame} (hx : TablesKept s x) (hf : f ∈ s.port.rx) :
    LawsKept s (answerTakeControl f x).state := by
  unfold answerTakeControl
  split
  · exact hx.laws
  · split
    · exact hx.laws
    · unfold takeControl
      split
      · dsimp only [controlAnswer]
        refine { hx.laws with
          records := fun h j => ?_
          holders := fun h => ⟨fun j l => ?_, (hx.holders h).2⟩ }
        · rw [stand_modStand]
          split
          · exact hx.laws.records h _
          · exact hx.laws.records h j
        · rw [stand_modStand]
          split
          · rintro ⟨⟩
            exact h.2.1 f hf
          · exact (hx.holders h).1 j l
      · exact hx.laws

theorem answerGiveControl_tablesKept (f : Frame) (s : State) : TablesKept s (answerGiveControl f s).state := by
  unfold answerGiveControl
  split
  · exact .refl s
  · split
    · exact .refl s
    · unfold giveControl
      split
      · exact .refl s
      · split
        · dsimp only [controlAnswer]
          exact modStand_tablesKept s _ _ (fun _ => rfl) fun _ _ h => by cases h
        · exact .refl s

theorem lockEnds_tablesKept (s : State) (i : StandNo) : TablesKept s (s.lockEnds i) := by
  refine modStand_tablesKept s i _ (fun _ => rfl) fun x l h => ?_
  obtain ⟨l', hl', e⟩ := Option.bind_eq_some_iff.1 h
  split at e
  · cases e
  · rw [hl', e]

theorem answerClearInterlock_tablesKept (f : Frame) (s : State) : TablesKept s (answerClearInterlock f s).state := by
  refine needLength_state (.refl s) ?_
  split
  · refine needStand_state (.refl s) fun i => ?_
    unfold clearInterlock
    dsimp only
    repeat' split
    · exact .refl s
    · dsimp only [grant]
      exact (modOut_own s i _).tablesKept (recordAndLock_modOut s i _)
    · exact .refl s
  · exact .refl s

theorem answerClearEvents_tablesKept (f : Frame) (s : State) : TablesKept s (answerClearEvents f s).state := by
  refine needLength_state (.refl s) ?_
  split
  · refine needLength_state (.refl s) (needStand_state (.refl s) fun i => ?_)
    unfold clearMarks
    split
    · dsimp only [grant]
      exact modStand_tablesKept s i _ (fun _ => rfl) fun _ _ h => h
    · exact .refl s
  · exact .refl s

/-! ### The part mode, the stand orders and the reels -/

theorem goRun_tablesKept (s : State) (o : List StandNo) : TablesKept s (s.goRun o) :=
  (setMode_tablesKept s .run).trans (forStands_tablesKept o _ (fun i x => settle_tablesKept x i) _)

theorem goHold_tablesKept (s : State) (o : List StandNo) : TablesKept s (s.goHold o) :=
  (setMode_tablesKept s .hold).trans (forStands_tablesKept o _
    (fun i x => (abortBeforeFire_tablesKept x i .hold).trans (settle_tablesKept _ i)) _)

theorem goConfig_tablesKept (s : State) (o : List StandNo) : TablesKept s (s.goConfig o) := by
  unfold goConfig
  refine (setMode_tablesKept s .config).trans (TablesKept.trans ?_ (forStands_tablesKept o _ (fun i x => ?_) _))
  · exact mapStands_tablesKept _ _ (fun _ _ => rfl) fun _ _ _ h => by cases h
  · exact (modCtx_tablesKept x i _).trans (settle_tablesKept _ i)

theorem setMode_state {P : State → Prop} {f : Frame} {m : Mode} {s : State} {k : Answer} (hs : P s) (hk : P k.state) :
    P (s.setMode f m k).state := by
  unfold setMode
  split
  · exact hk
  · exact hs

theorem setModeRun_tablesKept (s : State) (o : List StandNo) : TablesKept s (s.setModeRun o).state := by
  unfold setModeRun
  repeat' split
  · exact goRun_tablesKept s o
  · exact .refl s
  · exact goRun_tablesKept s o
  · exact .refl s

theorem setModeHold_tablesKept (s : State) (o : List StandNo) : TablesKept s (s.setModeHold o).state := by
  unfold setModeHold
  split
  · exact goHold_tablesKept s o
  · exact .refl s
  · exact .refl s

theorem setModeConfig_tablesKept (s : State) (o : List StandNo) : TablesKept s (s.setModeConfig o).state := by
  unfold setModeConfig
  repeat' split
  · exact .refl s
  · exact goConfig_tablesKept s o
  · exact .refl s
  · exact goConfig_tablesKept s o
  · exact .refl s

theorem orderSteps_state {P : State → Prop} {f : Frame} {s : State} {code : Nat} {ok : Bool} {k : Unit → Answer} (hs : P s)
    (hk : P (k ()).state) : P (orderSteps f s code ok k).state := by
  refine needLength_state hs ?_
  repeat' split
  · exact hk
  · exact hs
  · exact hs

theorem lockedOrder_tablesKept (code : Nat) (ok : State → Bool) (act : State → StandNo → Answer)
    (h : ∀ x i, TablesKept x (act x i).state) (f : Frame) (s : State) :
    TablesKept s (lockedOrder code ok act f s).state :=
  orderSteps_state (.refl s) (needStand_state (.refl s) fun i => needLock_state (.refl s) (h s i))

theorem autoOn_tablesKept (s : State) (i : StandNo) : TablesKept s (s.autoOn i).state := by
  unfold autoOn
  split
  · exact .refl s
  · exact (modCtx_tablesKept s i _).trans (settle_tablesKept _ i)

theorem autoOff_tablesKept (s : State) (i : StandNo) : TablesKept s (s.autoOff i).state := by
  unfold autoOff
  split
  · exact .refl s
  · exact (modCtx_tablesKept s i _).trans (settle_tablesKept _ i)

theorem spliceNow_tablesKept (s : State) (i : StandNo) : TablesKept s (s.spliceNow i).state := by
  have hearly (x : State) : TablesKept x (x.setEarly i) := modCtx_tablesKept x i _
  unfold spliceNow
  split
  · split
    · exact ((enterRunUp_own s i).tablesKept (recordAndLock_enterRunUp s i)).trans (hearly _)
    · exact .refl s
  · exact hearly s
  · exact (hearly s).trans ((enterFireWait_own _ i).tablesKept (recordAndLock_enterFireWait _ i))
  all_goals exact .refl s

theorem abortOrder_tablesKept (s : State) (i : StandNo) : TablesKept s (s.abortOrder i).state := by
  unfold abortOrder
  split
  · exact abort_tablesKept s i _
  · exact abort_tablesKept s i _
  · exact abort_tablesKept s i _
  · exact abort_tablesKept s i _
  all_goals exact .refl s

theorem answerAbort_tablesKept (f : Frame) (s : State) : TablesKept s (answerAbort f s).state :=
  orderSteps_state (.refl s) (needStand_state (.refl s) fun i => abortOrder_tablesKept s i)

theorem manualOn_tablesKept (s : State) (i : StandNo) : TablesKept s (s.manualOn i).state := by
  have h : TablesKept s (if (s.stand i).loop.manual then s
      else s.modLoop i fun l => { l with manual := true, mode := .track }) := by
    split
    · exact .refl s
    · exact modLoop_tablesKept s i _
  unfold manualOn
  split
  · exact h
  · exact h
  all_goals exact .refl s

theorem manualOff_tablesKept (s : State) (i : StandNo) : TablesKept s (s.manualOff i).state := by
  have h : TablesKept s (if (s.stand i).loop.manual then
      s.modLoop i fun l => { l with manual := false, mode := if l.locked then .track else .acquire } else s) := by
    split
    · exact modLoop_tablesKept s i _
    · exact .refl s
  unfold manualOff
  split
  · exact h
  · exact h
  all_goals exact .refl s

theorem reelChange_tablesKept (s : State) (i : StandNo) (f : Stand → Stand)
    (h : ∀ x, (f x).record = x.record ∧ (f x).lock = x.lock) : TablesKept s ((s.modStand i f).settle i) :=
  ((modStand_own s i f).tablesKept (recordAndLock_modStand s i f h)).trans (settle_tablesKept _ i)

theorem answerAddReel_tablesKept (f : Frame) (s : State) : TablesKept s (answerAddReel f s).state := by
  refine needLength_state (.refl s) (needStand_state (.refl s) fun i => needLock_state (.refl s) ?_)
  dsimp only
  split
  · exact .refl s
  · unfold addReel
    repeat' split
    · exact .refl s
    · exact .refl s
    · dsimp only [grant]
      exact reelChange_tablesKept s i _ fun _ => ⟨rfl, rfl⟩
    all_goals exact .refl s

theorem answerDropReel_tablesKept (f : Frame) (s : State) : TablesKept s (answerDropReel f s).state := by
  refine needLength_state (.refl s) ?_
  dsimp only
  split
  · exact .refl s
  · split
    · exact .refl s
    · refine needLock_state (.refl s) ?_
      unfold dropReel
      split
      · exact .refl s
      · dsimp only [grant]
        exact reelChange_tablesKept s _ _ fun _ => ⟨rfl, rfl⟩

theorem answerMarkReady_tablesKept (f : Frame) (s : State) : TablesKept s (answerMarkReady f s).state := by
  refine needLength_state (.refl s) (needStand_state (.refl s) fun i => needLock_state (.refl s) ?_)
  unfold markReady
  repeat' split
  · dsimp only [grant]
    exact reelChange_tablesKept s i _ fun _ => ⟨rfl, rfl⟩
  · exact .refl s
  · exact .refl s

theorem installRunning_tablesKept (s : State) (i : StandNo) (r : RunningReel) (d : Nat) :
    TablesKept s (s.installRunning i r d) := by
  unfold installRunning
  refine TablesKept.trans ?_ (settle_tablesKept _ i)
  exact ((modStand_own s i _).trans (runoutCheck_own _ i)).tablesKept (by simp)

theorem setRunning_tablesKept (s : State) (i : StandNo) (r : RunningReel) (d : Option Nat) :
    TablesKept s (s.setRunning i r d).state := by
  unfold setRunning
  repeat' split
  · exact .refl s
  · exact .refl s
  · exact installRunning_tablesKept s i r _
  all_goals exact .refl s

theorem clearRunning_tablesKept (s : State) (i : StandNo) : TablesKept s (s.clearRunning i).state := by
  unfold clearRunning
  split
  · dsimp only [grant]
    exact reelChange_tablesKept s i _ fun _ => ⟨rfl, rfl⟩
  · exact .refl s

theorem answerSetRunning_tablesKept (f : Frame) (s : State) : TablesKept s (answerSetRunning f s).state := by
  refine needLength_state (.refl s) (needStand_state (.refl s) fun i => needLock_state (.refl s) ?_)
  repeat' split
  · exact clearRunning_tablesKept s i
  · exact .refl s
  · exact setRunning_tablesKept s i _ _

theorem restarted_tablesKept (s : State) : TablesKept s s.restarted where
  grades := by rw [restarted_rest]
  line := by rw [restarted_rest]
  record i := by rw [restarted_stand]; rfl
  station := by rw [restarted_rest]; rfl
  groups := by rw [restarted_rest]; rfl
  lock i l h := by
    rw [restarted_stand] at h
    cases h
  rx := by
    rw [restarted_rest]
    exact List.nil_subset _
  reading b h := by
    rw [restarted_rest] at h
    exact (Reading.sender_unreserved _).symm.trans h

theorem answerRestart_tablesKept (f : Frame) (s : State) : TablesKept s (answerRestart f s).state := by
  unfold answerRestart
  split
  · exact restarted_tablesKept s
  · exact .refl s

theorem discardPartVerb_tablesKept (s : State) : TablesKept s s.discardPartVerb := by
  unfold discardPartVerb
  repeat' split
  · exact .refl s
  · exact (popFrame_tablesKept s).trans (returnSlot_tablesKept _)
  · exact .refl s

/-! ### Trackers and line samples -/

theorem tellStands_tablesKept (s : State) (k : SlotNo) (o : List StandNo) (f : StandNo → State → State)
    (h : ∀ i x, TablesKept x (f i x)) : TablesKept s (s.tellStands k o f) := by
  refine forStands_tablesKept o _ (fun i x => ?_) s
  split
  · exact h i x
  · exact .refl x

theorem coastingEnds_tablesKept (s : State) (k : SlotNo) (o : List StandNo) : TablesKept s (s.coastingEnds k o) := by
  unfold coastingEnds
  dsimp only
  repeat' split
  · exact (setTracker_tablesKept s k _).trans (tellStands_tablesKept _ k o _ fun i x =>
      (leaveFireSet_own x i).tablesKept (recordAndLock_leaveFireSet x i))
  · exact setTracker_tablesKept s k _
  · exact .refl s

theorem lostEnds_tablesKept (s : State) (k : SlotNo) (o : List StandNo) : TablesKept s (s.lostEnds k o) := by
  have htell (x : State) := tellStands_tablesKept x k o _ fun i y =>
    (raise_tablesKept y i .trackLost).trans (abortBeforeFire_tablesKept _ i .trackLost)
  unfold lostEnds
  dsimp only
  split
  · split
    · exact (setTracker_tablesKept s k _).trans (htell _)
    · exact (setTracker_tablesKept s k _).trans (htell _)
    · exact (setTracker_tablesKept s k _).trans (htell _)
    · exact setTracker_tablesKept s k _
    · exact setTracker_tablesKept s k _
  · exact .refl s

theorem windowEnds_tablesKept (s : State) (k : SlotNo) (o : List StandNo) : TablesKept s (s.windowEnds k o) := by
  unfold windowEnds
  dsimp only
  repeat' split
  · exact (setTracker_tablesKept s k _).trans (tellStands_tablesKept _ k o _ fun i x => raise_tablesKept x i _)
  · exact setTracker_tablesKept s k _
  · exact .refl s

theorem recordAndLock_trackers (s : State) (v : Vector Tracker 6) :
    ({ s with trackers := v } : State).recordAndLock = s.recordAndLock := rfl

theorem recordAndLock_takeSample (s : State) (p : List Byte) (o : List Matter) :
    (s.takeSample p o).recordAndLock = s.recordAndLock := by
  have h1 : (s.mapTrackers fun k _ => (s.sampleSlot p k).1).recordAndLock = s.recordAndLock := by
    rw [mapTrackers_rest, recordAndLock_trackers]
  unfold takeSample
  dsimp only
  rw [← h1]
  generalize (s.mapTrackers fun k _ => (s.sampleSlot p k).1) = x
  induction wholeOrder allMatters o generalizing x with
  | nil => rfl
  | cons m l ih => exact (ih _).trans (recordAndLock_hearMatter x s p m)

theorem takeSample_tablesKept (s : State) (p : List Byte) (o : List Matter) : TablesKept s (s.takeSample p o) :=
  (trackers_tablesKept s _).trans ((takeSample_swept s p o).tablesKept
    ((recordAndLock_takeSample s p o).trans (recordAndLock_trackers s _).symm))

theorem scanNext_tablesKept (s : State) (n : Fin 12) : TablesKept s { s with scanNext := n } :=
  ⟨rfl, rfl, fun _ => rfl, rfl, rfl, fun _ l h => ⟨l, h, rfl⟩, fun _ h => h, fun _ h => h⟩

theorem convert_tablesKept (s : State) (code : BitVec 12) : TablesKept s (s.convert code) := by
  have hnext := scanNext_tablesKept s (s.scanNext + 1)
  unfold convert
  dsimp only
  split
  · exact hnext.trans ((convertDancer_own _ _ code).tablesKept (recordAndLock_convertDancer _ _ code))
  · exact hnext.trans ((convertSensor_own _ _ code).tablesKept (recordAndLock_convertSensor _ _ code))

/-! ### The port -/

/-- A change of the port that keeps its addresses and its received frames, and follows no new frame. -/
theorem quietPort_tablesKept (s : State) (f : Port → Port) (hst : (f s.port).station = s.port.station)
    (hg : (f s.port).groups = s.port.groups) (hrx : (f s.port).rx = s.port.rx)
    (hrd : (f s.port).reading.sender = Option.none) : TablesKept s (s.modPort f) :=
  modPort_tablesKept s f hst hg (by rw [hrx]; exact List.Subset.refl _) fun b hb => by rw [hrd] at hb; cases hb

theorem readPayload_tablesKept (s : State) (p : List Byte) (c : Byte) : TablesKept s (s.readPayload p c) :=
  quietPort_tablesKept s _ rfl rfl rfl rfl

theorem arrivalEnds_tablesKept (s : State) (v : Byte) (p : List Byte) (c : Byte) (handOn : Header → State → State)
    (h : ∀ a x, TablesKept x (handOn a x)) : TablesKept s (s.arrivalEnds v p c handOn) := by
  unfold arrivalEnds
  repeat' split
  · exact (readPayload_tablesKept s p c).trans ((modPort_tablesKept _ _ rfl rfl (List.Subset.refl _) fun _ h => h).trans
      (h _ _))
  · exact readPayload_tablesKept s p c
  all_goals exact .refl s

theorem handSample_tablesKept (p : List Byte) (o : List Matter) (a : Header) (s : State) :
    TablesKept s (handSample p o a s) := by
  unfold handSample
  split
  · exact takeSample_tablesKept s p o
  · exact .refl s

theorem handHold_tablesKept (o : List StandNo) (a : Header) (s : State) : TablesKept s (handHold o a s) := by
  unfold handHold
  split
  · exact goHold_tablesKept s o
  · exact .refl s
  · exact .refl s

theorem abandonFrame_tablesKept (s : State) (l : List Bool) : TablesKept s (s.abandonFrame l) := by
  unfold abandonFrame
  dsimp only
  split
  · exact .refl s
  · exact quietPort_tablesKept s _ rfl rfl rfl rfl

theorem becomesIdle_tablesKept (s : State) (l : List Bool) : TablesKept s (s.becomesIdle l) := by
  unfold becomesIdle
  dsimp only
  split
  · exact .refl s
  · exact quietPort_tablesKept s _ rfl rfl rfl rfl

theorem startsReading_tablesKept (s : State) : TablesKept s s.startsReading := by
  unfold startsReading
  split
  · exact quietPort_tablesKept s _ rfl rfl rfl rfl
  · exact .refl s

theorem entersStuck_tablesKept (s : State) (l : List Bool) (o : List StandNo) : TablesKept s (s.entersStuck l o) := by
  unfold entersStuck
  dsimp only
  split
  · exact .refl s
  · exact (quietPort_tablesKept s _ rfl rfl rfl rfl).trans
      (forStands_tablesKept o _ (fun i x => abortBeforeFire_tablesKept x i _) _)

theorem beginsFrame_tablesKept (s : State) (r : List Contestant) : TablesKept s (s.beginsFrame r) := by
  unfold beginsFrame
  repeat' split
  · exact .refl s
  · exact quietPort_tablesKept s _ rfl rfl rfl rfl
  · exact .refl s

theorem entryLoses_txOnly (s : State) : TxOnly s s.entryLoses := by
  have hu (x : State) : TxOnly x x.unbegin := ⟨rfl⟩
  unfold entryLoses referenceLoses reportLoses
  repeat' split
  · exact .refl s
  · exact (TxOnly.mk rfl : TxOnly s (s.modPort fun p => { p with tx := withoutBegun p.tx })).trans (offer_txOnly _)
  · exact hu s
  · exact TxOnly.trans (TxOnly.trans ⟨rfl⟩ (hu _)) (offer_txOnly _)
  · exact TxOnly.trans (TxOnly.trans ⟨rfl⟩ (hu _)) (refreshReport_txOnly _ _)
  all_goals exact hu s

theorem losesContest_tablesKept (s : State) : TablesKept s s.losesContest := by
  unfold losesContest
  repeat' split
  · exact .refl s
  · exact .refl s
  · exact (quietPort_tablesKept s _ rfl rfl rfl rfl).trans (entryLoses_txOnly _).tablesKept

theorem handOutcome_swept (s : State) (e : TxEntry) (r : TxOutcome) : Swept s (s.handOutcome e r) := by
  unfold handOutcome
  repeat' split
  · exact (referenceOutcome_own s _ r).swept
  · exact .refl s
  · exact (driveOutcome_own s _ r).swept
  · exact (driveOutcome_own s _ r).swept
  · unfold noticeOutcome
    split
    · exact .refl s
    all_goals exact (markUnacked_own s 0 _).swept
  · exact .refl s
  · exact .refl s

theorem entryEnds_tablesKept (s : State) (r : TxOutcome) : TablesKept s (s.entryEnds r) := by
  unfold entryEnds
  split
  · exact .refl s
  · exact ((handOutcome_swept s _ r).tablesKept (recordAndLock_handOutcome s _ r)).trans
      (TxOnly.trans (TxOnly.mk rfl) (offer_txOnly _)).tablesKept

theorem frameEnds_tablesKept (s : State) (e : LineEnd) : TablesKept s (s.frameEnds e) := by
  unfold frameEnds
  repeat' split
  · exact .refl s
  · exact (modPort_tablesKept s _ rfl rfl (List.Subset.refl _) fun _ h => h).trans (entryEnds_tablesKept _ _)
  · exact .refl s

/-- A received frame comes from the sender whose header was accepted (R152). -/
theorem requestEnds_lawsKept (s : State) (p : List Byte) (c : Byte) : LawsKept s (s.requestEnds p c) := by
  have hs := (TablesKept.refl s).laws
  have hread := (readPayload_tablesKept s p c).laws
  unfold requestEnds
  split
  · rename_i h r hrd
    split
    · split
      · refine { hread with holders := fun ⟨hlock, hrx, hsender⟩ => ⟨hlock, fun f hf => ?_, fun b hb => by cases hb⟩ }
        rcases List.mem_append.1 hf with hf | hf
        · exact hrx f hf
        · obtain rfl := List.mem_singleton.1 hf
          exact hsender h.sender (by rw [readingSender_eq, hrd]; rfl)
      · exact hread
    · exact hs
  all_goals exact hs

/-- A header is followed only when its sender is an individual station (R150). -/
theorem individual_of_headerAccepted {s : State} {h : Header} (ha : s.headerAccepted h = true) :
    1 ≤ h.sender.toNat ∧ h.sender.toNat ≤ 239 := by
  simp only [headerAccepted, individualStation, Bool.and_eq_true, decide_eq_true_eq] at ha
  obtain ⟨⟨⟨⟨-, hi⟩, -⟩, -⟩, -⟩ := ha
  exact hi

/-- What is followed after a header has that header's sender. -/
theorem sender_followHeader (s : State) (h : Header) (b : Byte) (hb : (s.followHeader h).1.sender = some b) :
    b = h.sender := by
  unfold followHeader at hb
  repeat' split at hb
  all_goals cases hb
  all_goals rfl

theorem headerEnds_lawsKept (s : State) (h : Header) (c : Byte) : LawsKept s (s.headerEnds h c) := by
  have hs := (TablesKept.refl s).laws
  unfold headerEnds
  split
  · dsimp only
    refine { hs with holders := fun ⟨hlock, hrx, _⟩ => ⟨hlock, hrx, fun b hb => ?_⟩ }
    rw [readingSender_eq] at hb
    dsimp only [port_modPort] at hb
    split at hb
    · rename_i ha
      rw [sender_followHeader s h b hb]
      exact individual_of_headerAccepted ha.2
    · cases hb
  · exact hs

theorem stand_poweredOn (s : State) (pins : Pins) (i : StandNo) :
    (s.poweredOn pins).stand i = Stand.start pins.guardOpen[i] pins.runHigh[i] pins.freshHigh[i] := by
  match i with
  | 0 | 1 | 2 | 3 | 4 | 5 => rfl

theorem stationOfStraps_individual (b : Byte) : 1 ≤ (stationOfStraps b).toNat ∧ (stationOfStraps b).toNat ≤ 239 := by
  unfold stationOfStraps
  split
  · assumption
  · decide

/-- Power-on leaves the tables empty, the line settings in range, no lock held and nothing received (R155, R154). -/
theorem poweredOn_lawsKept (s : State) (pins : Pins) : LawsKept s (s.poweredOn pins) where
  grades _ g r h := by
    change (Vector.replicate 32 (Option.none : Option GradeRecord))[g.val] = some r at h
    rw [Vector.getElem_replicate] at h
    cases h
  records _ i h := by
    rw [stand_poweredOn] at h
    cases h
  line _ := by
    have h : State.reset.LineInRange := by
      unfold LineInRange
      decide
    exact h
  addresses _ := ⟨Nat.zero_le _, List.nodup_nil, (fun _ h => by cases h), stationOfStraps_individual pins.straps⟩
  holders _ := by
    refine ⟨fun i l h => ?_, (fun _ h => by cases h), fun _ h => by cases h⟩
    rw [stand_poweredOn] at h
    cases h

/-! ### Every command -/

/-- An event of one stand, which writes no record and no lock. -/
theorem own_lawsKept {i : StandNo} {s u : State} (t : Time) (h : OwnChange i (s.setClock t) u)
    (hr : u.recordAndLock = (s.setClock t).recordAndLock) : LawsKept s u :=
  ((setClock_tablesKept s t).trans (h.tablesKept hr)).laws

theorem timed_lawsKept {s u : State} (t : Time) (h : TablesKept (s.setClock t) u) : LawsKept s u :=
  ((setClock_tablesKept s t).trans h).laws

/-- Every command keeps the laws of the tables and the lock holders. -/
theorem exec_lawsKept (c : Instr) (s : State) : ∃ u, exec c s = .next u ∧ LawsKept s u := by
  cases c with
  | powerOn pins => exact ⟨_, rfl, poweredOn_lawsKept s pins⟩
  | askStatus t => exact ⟨_, rfl, handle_lawsKept_of_reads s t _ _ fun _ _ => rfl⟩
  | askStand t => exact ⟨_, rfl, handle_lawsKept_of_reads s t _ _ answerAskStand_state⟩
  | askGrade t => exact ⟨_, rfl, handle_lawsKept_of_reads s t _ _ answerAskGrade_state⟩
  | askQueue t => exact ⟨_, rfl, handle_lawsKept_of_reads s t _ _ answerAskQueue_state⟩
  | askLog t => exact ⟨_, rfl, handle_lawsKept_of_reads s t _ _ answerAskLog_state⟩
  | askLine t => exact ⟨_, rfl, handle_lawsKept_of_reads s t _ _ fun _ _ => rfl⟩
  | putGrade t => exact ⟨_, rfl, handle_lawsKept_of_laws s t _ _ answerPutGrade_lawsKept⟩
  | putStand t => exact ⟨_, rfl, handle_lawsKept_of_laws s t _ _ answerPutStand_lawsKept⟩
  | putLine t => exact ⟨_, rfl, handle_lawsKept_of_laws s t _ _ answerPutLine_lawsKept⟩
  | setGroups t => exact ⟨_, rfl, handle_lawsKept_of_laws s t _ _ answerSetGroups_lawsKept⟩
  | addReel t => exact ⟨_, rfl, handle_lawsKept_of_tables s t _ _ answerAddReel_tablesKept⟩
  | dropReel t => exact ⟨_, rfl, handle_lawsKept_of_tables s t _ _ answerDropReel_tablesKept⟩
  | markReady t => exact ⟨_, rfl, handle_lawsKept_of_tables s t _ _ answerMarkReady_tablesKept⟩
  | setRunning t => exact ⟨_, rfl, handle_lawsKept_of_tables s t _ _ answerSetRunning_tablesKept⟩
  | setModeRun t o =>
    exact ⟨_, rfl, handle_lawsKept_of_tables s t _ _ fun f x => setMode_state (.refl x) (setModeRun_tablesKept x o)⟩
  | setModeHold t o =>
    exact ⟨_, rfl, handle_lawsKept_of_tables s t _ _ fun f x => setMode_state (.refl x) (setModeHold_tablesKept x o)⟩
  | setModeConfig t o =>
    exact ⟨_, rfl, handle_lawsKept_of_tables s t _ _ fun f x => setMode_state (.refl x) (setModeConfig_tablesKept x o)⟩
  | standOrderAutoOn t =>
    exact ⟨_, rfl, handle_lawsKept_of_tables s t _ _ (lockedOrder_tablesKept 1 _ _ autoOn_tablesKept)⟩
  | standOrderAutoOff t =>
    exact ⟨_, rfl, handle_lawsKept_of_tables s t _ _ (lockedOrder_tablesKept 2 _ _ autoOff_tablesKept)⟩
  | standOrderSpliceNow t =>
    exact ⟨_, rfl, handle_lawsKept_of_tables s t _ _ (lockedOrder_tablesKept 3 _ _ spliceNow_tablesKept)⟩
  | standOrderAbort t => exact ⟨_, rfl, handle_lawsKept_of_tables s t _ _ answerAbort_tablesKept⟩
  | standOrderManualTrackOn t =>
    exact ⟨_, rfl, handle_lawsKept_of_tables s t _ _ (lockedOrder_tablesKept 5 _ _ manualOn_tablesKept)⟩
  | standOrderManualTrackOff t =>
    exact ⟨_, rfl, handle_lawsKept_of_tables s t _ _ (lockedOrder_tablesKept 6 _ _ manualOff_tablesKept)⟩
  | takeControl t => exact ⟨_, rfl, handle_lawsKept s t _ _ _ fun _ hf _ hx => answerTakeControl_lawsKept hx hf⟩
  | giveControl t => exact ⟨_, rfl, handle_lawsKept_of_tables s t _ _ answerGiveControl_tablesKept⟩
  | clearLatchInterlock t => exact ⟨_, rfl, handle_lawsKept_of_tables s t _ _ answerClearInterlock_tablesKept⟩
  | clearLatchEvents t => exact ⟨_, rfl, handle_lawsKept_of_tables s t _ _ answerClearEvents_tablesKept⟩
  | restart t => exact ⟨_, rfl, handle_lawsKept_of_tables s t _ _ answerRestart_tablesKept⟩
  | unknownVerb t => exact ⟨_, rfl, handle_lawsKept_of_reads s t _ _ fun _ _ => rfl⟩
  | partVerbDiscarded t => exact ⟨_, rfl, timed_lawsKept t (discardPartVerb_tablesKept _)⟩
  | lineHold t p k o => exact ⟨_, rfl, timed_lawsKept t (arrivalEnds_tablesKept _ _ p k _ (handHold_tablesKept o))⟩
  | lineSample t p k o => exact ⟨_, rfl, timed_lawsKept t (arrivalEnds_tablesKept _ _ p k _ (handSample_tablesKept p o))⟩
  | coastingExpiry t k o => exact ⟨_, rfl, timed_lawsKept t (coastingEnds_tablesKept _ k o)⟩
  | lostExpiry t k o => exact ⟨_, rfl, timed_lawsKept t (lostEnds_tablesKept _ k o)⟩
  | windowClose t k o => exact ⟨_, rfl, timed_lawsKept t (windowEnds_tablesKept _ k o)⟩
  | pulseInputChange t i ch b =>
    exact ⟨_, rfl, own_lawsKept t (inputChanges_own _ i ch b) (recordAndLock_inputChanges _ i ch b)⟩
  | changeAccepted t i ch b =>
    exact ⟨_, rfl, own_lawsKept t (changeHolds_own _ i ch b) (recordAndLock_changeHolds _ i ch b)⟩
  | stoppedTimerExpiry t i ch =>
    exact ⟨_, rfl, own_lawsKept t (channelStops_own _ i ch) (recordAndLock_channelStops _ i ch)⟩
  | conversionCompletion t code => exact ⟨_, rfl, timed_lawsKept t (convert_tablesKept _ code)⟩
  | guardOpen t i => exact ⟨_, rfl, own_lawsKept t (guardOpens_own _ i) (recordAndLock_guardOpens _ i)⟩
  | guardSafe t i => exact ⟨_, rfl, own_lawsKept t (modOut_own _ i _) (recordAndLock_modOut _ i _)⟩
  | missingTabExpiry t i => exact ⟨_, rfl, own_lawsKept t (missingTabEnds_own _ i) (recordAndLock_missingTabEnds _ i)⟩
  | pasterTimerExpiry t i => exact ⟨_, rfl, own_lawsKept t (pasterEnds_own _ i) (recordAndLock_pasterEnds _ i)⟩
  | knifeTimerExpiry t i => exact ⟨_, rfl, own_lawsKept t (knifeEnds_own _ i) (recordAndLock_knifeEnds _ i)⟩
  | confirmTimerExpiry t i => exact ⟨_, rfl, own_lawsKept t (confirmEnds_own _ i) (recordAndLock_confirmEnds _ i)⟩
  | stoppingTimerExpiry t i => exact ⟨_, rfl, own_lawsKept t (stoppingEnds_own _ i) (recordAndLock_stoppingEnds _ i)⟩
  | pasteEndExpiry t i => exact ⟨_, rfl, own_lawsKept t (modOut_own _ i _) (recordAndLock_modOut _ i _)⟩
  | knifeEndExpiry t i => exact ⟨_, rfl, own_lawsKept t (modOut_own _ i _) (recordAndLock_modOut _ i _)⟩
  | brakeDelayExpiry t i => exact ⟨_, rfl, own_lawsKept t (modOut_own _ i _) (recordAndLock_modOut _ i _)⟩
  | brakeHoldExpiry t i => exact ⟨_, rfl, own_lawsKept t (modOut_own _ i _) (recordAndLock_modOut _ i _)⟩
  | hornHalfPeriod t i => exact ⟨_, rfl, own_lawsKept t (modOut_own _ i _) (recordAndLock_modOut _ i _)⟩
  | prewarnPhase t i => exact ⟨_, rfl, own_lawsKept t (modOut_own _ i _) (recordAndLock_modOut _ i _)⟩
  | lockExpiry t i => exact ⟨_, rfl, timed_lawsKept t (lockEnds_tablesKept _ i)⟩
  | requestFrame t p k => exact ⟨_, rfl, (setClock_tablesKept s t).laws.trans (requestEnds_lawsKept _ p k)⟩
  | transmitBegin m => exact ⟨_, rfl, timed_lawsKept m.t (beginsFrame_tablesKept _ m.rivals)⟩
  | lostArbitration t => exact ⟨_, rfl, timed_lawsKept t (losesContest_tablesKept _)⟩
  | transmitOutcome t e => exact ⟨_, rfl, timed_lawsKept t (frameEnds_tablesKept _ e)⟩
  | busIdle m => exact ⟨_, rfl, timed_lawsKept m.t (becomesIdle_tablesKept _ m.line)⟩
  | stuck m o => exact ⟨_, rfl, timed_lawsKept m.t (entersStuck_tablesKept _ m.line o)⟩
  | startMarkRead t => exact ⟨_, rfl, timed_lawsKept t (startsReading_tablesKept _)⟩
  | headerCheckEnd t h k => exact ⟨_, rfl, (setClock_tablesKept s t).laws.trans (headerEnds_lawsKept _ h k)⟩
  | receptionAbandoned m => exact ⟨_, rfl, timed_lawsKept m.t (abandonFrame_tablesKept _ m.line)⟩

/-- Every step keeps the laws of the tables and the lock holders; the queue of waiting commands is none of them. -/
theorem step_lawsKept {s u : State} (h : step s = .next u) : LawsKept s u := by
  unfold step at h
  split at h
  · cases h
    exact (TablesKept.refl s).laws
  · rename_i c rest _
    obtain ⟨v, hv, hl⟩ := exec_lawsKept c { s with pending := rest }
    rw [hv] at h
    cases h
    exact ⟨hl.grades, hl.records, hl.line, hl.addresses, hl.holders⟩

end State

end Machine

end Sys2Proof
end

section

open Sys2Proof.Machine

/-- Settles O56. -/
theorem tablesKeptInRange : Obligations.TablesKeptInRange := fun _ _ h =>
  have k := State.step_lawsKept h
  ⟨k.grades, k.records, k.line, k.addresses, k.holders⟩

end

section
/-! SUPPORT. The steps of a request before its own checks, each said once, and what the taking of a frame leaves. -/

namespace Sys2Proof

namespace Machine

/-! ### Numbers in a payload -/

theorem byteAt_zero {p : List Byte} {b : Byte} (h : p.head? = some b) : byteAt p 0 = b := by
  cases p with
  | nil => cases h
  | cons a _ => exact Option.some.inj h

/-- A stand number in a byte. -/
theorem toNat_standByte (i : StandNo) : (BitVec.ofNat 8 (i.val + 1)).toNat = i.val + 1 := by
  rw [BitVec.toNat_ofNat]
  omega

theorem u8_zero_stand {p : List Byte} {i : StandNo} (h : p.head? = some (BitVec.ofNat 8 (i.val + 1))) :
    u8 p 0 = i.val + 1 := by
  rw [u8, byteAt_zero h, toNat_standByte]

theorem u8_zero_grade {p : List Byte} {g : Fin 32} (h : p.head? = some (BitVec.ofNat 8 g.val)) : u8 p 0 = g.val := by
  rw [u8, byteAt_zero h, BitVec.toNat_ofNat]
  omega

@[simp] theorem standOf_standNumber (i : StandNo) : standOf (i.val + 1) = some i := by
  simp [standOf, Nat.lt_iff_add_one_le.1 i.isLt]

theorem standOf_outside {n : Nat} (h : n = 0 ∨ 6 < n) : standOf n = none := by
  unfold standOf
  rw [dif_neg (by omega)]

@[simp] theorem gradeOf_val (g : Fin 32) : gradeOf g.val = some g := by simp [gradeOf]

theorem carries_of_verb {v : Byte} {f : Frame} (h : f.verb = v) : carries v f = true := by simp [carries, h]

/-! ### The steps before a request's own checks (R158, R2, R169) -/

section

variable {f : Frame} {s : State} {i : StandNo} {n : Nat}

theorem needLength_short (h : f.payload.length < n) (k : Unit → Answer) : needLength f n s k = refuse s .badValue :=
  if_pos h

theorem needLength_long (h : n ≤ f.payload.length) (k : Unit → Answer) : needLength f n s k = k () :=
  if_neg (Nat.not_lt.2 h)

theorem needStand_named (h : f.payload.head? = some (BitVec.ofNat 8 (i.val + 1))) (k : StandNo → Answer) :
    needStand (u8 f.payload 0) s k = k i := by
  simp only [needStand, u8_zero_stand h, standOf_standNumber]

theorem needStand_outside (h : n = 0 ∨ 6 < n) (k : StandNo → Answer) : needStand n s k = refuse s .badValue := by
  simp only [needStand, standOf_outside h]

theorem needLock_passes (h : s.LockPasses i f.sender) (k : Unit → Answer) : needLock f i s k = k () := by
  unfold needLock
  split
  · rfl
  · rename_i l hl
    exact if_pos (h l hl)

/-- The refusal LOCKED carries the stand and the holder. -/
theorem needLock_held {l : ControlLock} (h : (s.stand i).lock = some l) (hl : l.holder ≠ f.sender) (k : Unit → Answer) :
    needLock f i s k = ⟨s, .locked, [BitVec.ofNat 8 (i.val + 1), l.holder]⟩ := by
  simp only [needLock, h, if_neg hl]
  rfl

end

namespace State

/-! ### What the taking leaves as it was -/

section

variable (s : State) (t : Time) (f : Frame)

@[simp] theorem mode_taking : (s.taking t f).mode = s.mode := rfl

@[simp] theorem grades_taking : (s.taking t f).grades = s.grades := rfl

@[simp] theorem line_taking : (s.taking t f).line = s.line := rfl

@[simp] theorem station_taking : (s.taking t f).port.station = s.port.station := rfl

@[simp] theorem tracker_taking (k : SlotNo) : (s.taking t f).tracker k = s.tracker k := rfl

@[simp] theorem slotInUse_taking (k : SlotNo) : (s.taking t f).slotInUse k = s.slotInUse k := by simp [slotInUse]

end

/-- The taking leaves a lock that is free or held by the sender so. -/
theorem LockPasses.taking {s : State} {i : StandNo} {f : Frame} (h : s.LockPasses i f.sender) (t : Time) :
    (s.taking t f).LockPasses i f.sender := by
  intro l hl
  rw [stand_taking] at hl
  obtain ⟨l', hl', rfl⟩ := Option.map_eq_some_iff.1 hl
  rw [if_pos (h l' hl')]
  exact h l' hl'

/-- The taking leaves a lock held by another station alone. -/
theorem lock_taking_other {s : State} {i : StandNo} {f : Frame} {l : ControlLock} (h : (s.stand i).lock = some l)
    (hl : l.holder ≠ f.sender) (t : Time) : ((s.taking t f).stand i).lock = some l := by
  rw [stand_taking]
  simp [h, hl]

/-! ### A taken request and its answer -/

/-- A taken request whose answer is known: the state of the answer, with the reply. -/
theorem handle_answers {s : State} {f : Frame} (h : s.CanTake f) (t : Time) {takes : Frame → Bool} {ask : Bool}
    {body : Frame → State → Answer} (ht : takes f = true) {u : State} {r : Result} {d : List Byte}
    (hb : body f (s.taking t f) = ⟨u, r, d⟩) : (s.setClock t).handle takes ask body = u.replied f r d := by
  rw [handle_of_canTake h t takes ask body ht, hb]

/-- The same for a command, whose meaning is the handling of the frame. -/
theorem exec_answers {s : State} {f : Frame} (h : s.CanTake f) {t : Time} {c : Instr} {takes : Frame → Bool} {ask : Bool}
    {body : Frame → State → Answer} (hc : exec c s = .next ((s.setClock t).handle takes ask body)) (ht : takes f = true)
    {u : State} {r : Result} {d : List Byte} (hb : body f (s.taking t f) = ⟨u, r, d⟩) :
    exec c s = .next (u.replied f r d) := by
  rw [hc, handle_answers h t ht hb]

end State

end Machine

end Sys2Proof
end

section
/-! SUPPORT. The requests that write the tables: their range checks and what a taken one comes to (O10 to O13). -/

namespace Sys2Proof

namespace Machine

/-! ### Range checks -/

theorem gradeInRange_iff (g : GradeRecord) : gradeInRange g = true ↔
    30 ≤ g.caliper ∧ g.caliper ≤ 300 ∧ 500 ≤ g.core ∧ g.core ≤ 2000 ∧ 20 ≤ g.runoutMargin ∧ g.runoutMargin ≤ 500 ∧
    g.core + g.runoutMargin + 100 ≤ g.spliceDiameter ∧ g.spliceDiameter ≤ 4000 ∧
    g.spliceDiameter + 1000 ≤ g.nominal ∧ g.nominal ≤ 14000 ∧ g.defaultTab ≤ 999 ∧
    20 ≤ g.tailLength ∧ g.tailLength ≤ 1000 ∧ 200 ≤ g.runUpRate ∧ g.runUpRate ≤ 5000 ∧ g.settleTime ≤ 20000 ∧
    5 ≤ g.lockBand ∧ g.lockBand ≤ 200 ∧ 2 ≤ g.lockCount ∧ g.lockCount ≤ 32 ∧
    50 ≤ g.correctionLimit ∧ g.correctionLimit ≤ 2000 := by
  simp only [gradeInRange, within, Bool.and_eq_true, decide_eq_true_eq]
  omega

theorem standInRange_iff (r : StandRecord) : standInRange r = true ↔
    1 ≤ r.driveStation.toNat ∧ r.driveStation.toNat ≤ 239 ∧ r.sensorToNip ≤ 999 ∧
    5000 ≤ r.pasterLatency ∧ r.pasterLatency ≤ 200000 ∧ 2000 ≤ r.knifeLatency ∧ r.knifeLatency ≤ 100000 ∧
    r.knifePath ≤ 3000 ∧ 100 ≤ r.pasteHold ∧ r.pasteHold ≤ 2000 ∧ 20 ≤ r.knifePulse ∧ r.knifePulse ≤ 500 ∧
    r.brakeDelay ≤ 5000 ∧ 1000 ≤ r.brakeHold ∧ r.brakeHold ≤ 30000 ∧ 50 ≤ r.filterTime ∧ r.filterTime ≤ 2000 ∧
    r.sensorZero ≤ 14000 ∧ -10000 ≤ r.sensorSlope ∧ r.sensorSlope ≤ 10000 ∧
    16 ≤ r.dancerLow ∧ r.dancerLow < r.dancerHigh ∧ r.dancerHigh ≤ 4079 ∧ r.leadMargin ≤ 30000 ∧ r.warnTime ≤ 60000 := by
  simp only [standInRange, individualStation, within, Bool.and_eq_true, decide_eq_true_eq]
  omega

namespace State

/-! ### PUT GRADE -/

/-- A grade is in use while a stand in RUNUP through CUT has it as its running reel's or its head's (R5). -/
theorem gradeInUse_iff (s : State) (g : Fin 32) : s.gradeInUse g = true ↔ ∃ i, (s.stand i).ctx.state.splicing = true ∧
    ((∃ a, (s.stand i).running = some a ∧ a.grade = g) ∨ ∃ a, (s.stand i).queue.head? = some a ∧ a.grade = g) := by
  simp only [gradeInUse, head, List.any_eq_true, mem_allStands, true_and, Bool.and_eq_true, Bool.or_eq_true,
    Option.any_eq_true, beq_iff_eq]

@[simp] theorem gradeInUse_taking (s : State) (t : Time) (f : Frame) (g : Fin 32) :
    (s.taking t f).gradeInUse g = s.gradeInUse g := by simp [gradeInUse, head]

theorem answerPutGrade_eq {f : Frame} {g : Fin 32} (hl : 25 ≤ f.payload.length)
    (hg : f.payload.head? = some (BitVec.ofNat 8 g.val)) (x : State) :
    answerPutGrade f x = x.putGrade g (gradeOfPayload f.payload) := by
  unfold answerPutGrade
  rw [needLength_long hl, u8_zero_grade hg]
  simp only [gradeOf_val]

/-! ### PUT STAND -/

theorem stand_trackers (s : State) (v : Vector Tracker 6) (j : StandNo) :
    ({ s with trackers := v } : State).stand j = s.stand j := rfl

theorem stand_mapTrackers (s : State) (f : SlotNo → Tracker → Tracker) (j : StandNo) :
    (s.mapTrackers f).stand j = s.stand j := by rw [mapTrackers_rest, stand_trackers]

/-- The part with a stand's record replaced and the trackers following the slots in use, before the context settles
(R8, R26). -/
def withRecord (s : State) (i : StandNo) (r : StandRecord) : State :=
  let s1 := s.modStand i fun x => { x with record := r, measured := x.measured && r.webSlot == (s.stand i).record.webSlot }
  s1.mapTrackers fun k x => retuneTracker (s.slotInUse k) (s1.slotInUse k) x

theorem stand_withRecord (s : State) (i j : StandNo) (r : StandRecord) : (s.withRecord i r).stand j =
    if i = j then { s.stand i with
      record := r
      measured := (s.stand i).measured && r.webSlot == (s.stand i).record.webSlot }
    else s.stand j := by
  unfold withRecord
  dsimp only
  rw [stand_mapTrackers, stand_modStand]

theorem withRecord_rest (s : State) (i : StandNo) (r : StandRecord) :
    s.withRecord i r = { s with stands := (s.withRecord i r).stands, trackers := (s.withRecord i r).trackers } := by
  unfold withRecord
  dsimp only
  rw [mapTrackers_rest]
  rfl

/-- A slot is in use by what the stand records name. -/
theorem slotInUse_congr {s u : State} (h : ∀ i, (u.stand i).record = (s.stand i).record) (k : SlotNo) :
    u.slotInUse k = s.slotInUse k := by simp only [slotInUse, h]

theorem tracker_withRecord (s : State) (i : StandNo) (r : StandRecord) (k : SlotNo) : (s.withRecord i r).tracker k =
    retuneTracker (s.slotInUse k) ((s.withRecord i r).slotInUse k) (s.tracker k) := by
  have h : (s.withRecord i r).slotInUse k = (s.modStand i fun x =>
      { x with record := r, measured := x.measured && r.webSlot == (s.stand i).record.webSlot }).slotInUse k :=
    slotInUse_congr (fun j => by rw [stand_withRecord, stand_modStand]) k
  rw [h]
  unfold withRecord
  dsimp only
  rw [mapTrackers_tracker]
  rfl

/-- Settling changes stands alone. -/
theorem settle_rest (s : State) (i : StandNo) : s.settle i = { s with stands := (s.settle i).stands } := by
  unfold settle enterRest chooseHorn
  dsimp only
  repeat' split
  all_goals rfl

section

variable {s : State} {i : StandNo} {r : StandRecord}

theorem replaceRecord_same (h : r.enabled = (s.stand i).record.enabled) : s.replaceRecord i r = s.withRecord i r := by
  simp [replaceRecord, withRecord, h]

theorem replaceRecord_enables (hr : r.enabled = true) (ho : (s.stand i).record.enabled = false) :
    s.replaceRecord i r = (s.withRecord i r).settle i := by
  simp [replaceRecord, withRecord, hr, ho]

theorem replaceRecord_disables (hr : r.enabled = false) (ho : (s.stand i).record.enabled = true) :
    s.replaceRecord i r =
      ((s.withRecord i r).modCtx i fun c => { c with auto := false, prewarn := false }).settle i := by
  simp [replaceRecord, withRecord, hr, ho]

end

/-- The stands after one has settled. -/
theorem stands_settle (s : State) (i : StandNo) : ∃ h : Horn, ∀ j, (s.settle i).stand j =
    if i = j then { s.stand i with ctx := settledCtx s.mode (s.stand i), out := { (s.stand i).out with horn := h } }
    else s.stand j := by
  obtain ⟨h, hi⟩ := stand_settle s i i
  refine ⟨h, fun j => ?_⟩
  by_cases e : i = j
  · subst e
    rw [hi, if_pos rfl]
  · rw [if_neg e, (settle_own s i).stands j (Ne.symm e)]

/-- The context of a stand that has its new record, the enabled field having been `old`: a change of the field settles it,
with the auto and prewarn marks cleared when the stand leaves use (R62). -/
def recordedCtx (m : Mode) (old : Bool) (x : Stand) : Context :=
  if x.record.enabled = old then x.ctx
  else if x.record.enabled then settledCtx m x
  else settledCtx m { x with ctx := { x.ctx with auto := false, prewarn := false } }

/-- A taken PUT STAND, said once: the record is replaced, the trackers follow the slots in use, and the stand's context and
horn may change (R8, R26, R62). -/
theorem replaceRecord_spec (s : State) (i : StandNo) (r : StandRecord) :
    s.replaceRecord i r = { s.withRecord i r with stands := (s.replaceRecord i r).stands } ∧
      ∃ h : Horn, (r.enabled = (s.stand i).record.enabled → h = (s.stand i).out.horn) ∧
        ∀ j, (s.replaceRecord i r).stand j =
          if i = j then { (s.withRecord i r).stand i with
            ctx := recordedCtx s.mode (s.stand i).record.enabled ((s.withRecord i r).stand i)
            out := { (s.stand i).out with horn := h } }
          else s.stand j := by
  have hi : (s.withRecord i r).stand i = { s.stand i with
      record := r, measured := (s.stand i).measured && r.webSlot == (s.stand i).record.webSlot } := by
    rw [stand_withRecord, if_pos rfl]
  have hm : (s.withRecord i r).mode = s.mode := by rw [withRecord_rest]
  have hj (j : StandNo) (e : i ≠ j) : (s.withRecord i r).stand j = s.stand j := by rw [stand_withRecord, if_neg e]
  by_cases hsame : r.enabled = (s.stand i).record.enabled
  · rw [replaceRecord_same hsame]
    refine ⟨rfl, (s.stand i).out.horn, fun _ => rfl, fun j => ?_⟩
    by_cases e : i = j
    · subst e
      rw [if_pos rfl, hi]
      simp only [recordedCtx, if_pos hsame]
    · rw [if_neg e, hj j e]
  · cases hr : r.enabled
    · have ho : (s.stand i).record.enabled = true := by simpa [hr] using hsame
      rw [replaceRecord_disables hr ho]
      obtain ⟨h, hs⟩ := stands_settle ((s.withRecord i r).modCtx i fun c => { c with auto := false, prewarn := false }) i
      refine ⟨(settle_rest _ i).trans rfl, h, fun e => by simp [ho] at e, fun j => ?_⟩
      rw [hs j]
      by_cases e : i = j
      · subst e
        simp [hi, recordedCtx, hr, ho, hm]
      · simp [e, hj j e]
    · have ho : (s.stand i).record.enabled = false := by simpa [hr] using hsame
      rw [replaceRecord_enables hr ho]
      obtain ⟨h, hs⟩ := stands_settle (s.withRecord i r) i
      refine ⟨settle_rest _ i, h, fun e => by simp [ho] at e, fun j => ?_⟩
      rw [hs j]
      by_cases e : i = j
      · subst e
        simp [hi, recordedCtx, hr, ho, hm]
      · simp [e, hj j e]

theorem slotInUse_replaceRecord (s : State) (i : StandNo) (r : StandRecord) (k : SlotNo) :
    (s.replaceRecord i r).slotInUse k = (s.withRecord i r).slotInUse k := by
  obtain ⟨-, h, -, hs⟩ := replaceRecord_spec s i r
  refine slotInUse_congr (fun j => ?_) k
  rw [hs j, stand_withRecord]
  by_cases e : i = j
  · subst e
    simp [stand_withRecord]
  · simp [e, stand_withRecord]

/-- The trackers follow the slots in use (R26). -/
theorem tracker_replaceRecord (s : State) (i : StandNo) (r : StandRecord) (k : SlotNo) : (s.replaceRecord i r).tracker k =
    retuneTracker (s.slotInUse k) ((s.replaceRecord i r).slotInUse k) (s.tracker k) := by
  rw [slotInUse_replaceRecord, ← tracker_withRecord, (replaceRecord_spec s i r).1]
  rfl

theorem answerPutStand_eq {f : Frame} {i : StandNo} {r : StandRecord} (hl : 39 ≤ f.payload.length)
    (hi : f.payload.head? = some (BitVec.ofNat 8 (i.val + 1))) (hp : standRecordOfPayload f.payload = some r)
    (x : State) : answerPutStand f x = x.putStand i r := by
  unfold answerPutStand
  rw [needLength_long hl, needStand_named hi]
  simp only [hp]

/-! ### PUT LINE and SET GROUPS -/

theorem answerPutLine_eq {f : Frame} {a b c d e : Byte} {more : List Byte} (hp : f.payload = a :: b :: c :: d :: e :: more)
    (x : State) : answerPutLine f x =
      if x.mode = .config then x.putLine ⟨a, b, c.toNat, (d ++ e).toNat⟩ else refuse x .wrongMode := by
  unfold answerPutLine
  rw [needLength_long (by rw [hp]; simp)]
  simp only [lineOfPayload, hp]
  rfl

/-- The part with its line settings replaced; a new line master sends every tracker to NONE (R10, R40). -/
def withLine (s : State) (l : LineSettings) : State :=
  if l.lineMaster = s.line.lineMaster then { s with line := l }
  else ({ s with line := l } : State).mapTrackers fun _ _ => Tracker.start

theorem putLine_eq (s : State) (l : LineSettings) :
    s.putLine l = if lineInRange l s.port.station then grant (s.withLine l) else refuse s .badValue := rfl

theorem withLine_rest (s : State) (l : LineSettings) :
    s.withLine l = { s with line := l, trackers := (s.withLine l).trackers } := by
  unfold withLine
  split
  · rfl
  · rw [mapTrackers_rest]

theorem tracker_withLine (s : State) (l : LineSettings) (k : SlotNo) :
    (s.withLine l).tracker k = if l.lineMaster = s.line.lineMaster then s.tracker k else Tracker.start := by
  unfold withLine
  split
  · rfl
  · rw [mapTrackers_tracker]

theorem answerSetGroups_eq {f : Frame} {groups more : List Byte} (hg : groups.length < 256)
    (hp : f.payload = BitVec.ofNat 8 groups.length :: (groups ++ more)) (x : State) : answerSetGroups f x =
      if x.mode = .config then x.setGroups groups.length groups else refuse x .wrongMode := by
  have hn : u8 f.payload 0 = groups.length := by
    rw [u8, byteAt_zero (by rw [hp]; rfl), BitVec.toNat_ofNat]
    exact Nat.mod_eq_of_lt hg
  unfold answerSetGroups
  rw [hn, needLength_long (by rw [hp]; simp; omega)]
  simp [hp]

end State

end Machine

end Sys2Proof

open Sys2Proof.Machine

/-- Settles O10. -/
theorem rangeChecksMatchTables : Obligations.RangeChecksMatchTables := ⟨gradeInRange_iff, standInRange_iff⟩

/-- Settles O11. -/
theorem putGradeChecksAndReplaces : Obligations.PutGradeChecksAndReplaces := by
  intro s t f g h hv hl hg r x used
  have hx : x.gradeInUse g = true ↔ used := by rw [State.gradeInUse_taking, State.gradeInUse_iff]
  have hb := State.answerPutGrade_eq hl hg x
  refine ⟨fun hr => ?_, fun hr hu => ?_, fun hr hu => ?_⟩
  · exact State.exec_answers h rfl (carries_of_verb hv) (by rw [hb, State.putGrade, hr]; rfl)
  · exact State.exec_answers h rfl (carries_of_verb hv) (by rw [hb, State.putGrade, if_pos hr, if_pos (hx.2 hu)]; rfl)
  · exact State.exec_answers h rfl (carries_of_verb hv) (by rw [hb, State.putGrade, if_pos hr, if_neg (hu ∘ hx.1)]; rfl)

/-- Settles O12. -/
theorem putStandReplacesRecord : Obligations.PutStandReplacesRecord := by
  intro s t f i r h hv hl hi hp hr x
  have hb : answerPutStand f x =
      if (x.stand i).ctx.state.resting then grant (x.replaceRecord i r) else refuse x .inUse := by
    rw [State.answerPutStand_eq hl hi hp x, State.putStand, if_pos hr]
  have hx : x.stand i = { s.stand i with lock := (x.stand i).lock } := by rw [State.stand_taking]
  refine ⟨fun hrest => ?_, fun hrest => ?_⟩
  · exact State.exec_answers h rfl (carries_of_verb hv) (by rw [hb, hx, hrest]; rfl)
  obtain ⟨hu, horn, hhorn, hst⟩ := State.replaceRecord_spec x i r
  have hui := hst i
  rw [if_pos rfl, State.stand_withRecord, if_pos rfl] at hui
  refine ⟨x.replaceRecord i r, State.exec_answers h rfl (carries_of_verb hv) (by rw [hb, hx, hrest]; rfl), ?_,
    fun j hj => ?_, ?_, fun he => ?_, fun he ho hs => ?_, fun he ho hs ha => ?_, fun k => ?_⟩
  · rw [hu, State.withRecord_rest]
  · rw [hst j, if_neg (Ne.symm hj)]
  · rw [hui]
    simp [x]
  · have hc : (s.stand i).record.enabled = (x.stand i).record.enabled := by rw [hx]
    have ho : (x.stand i).out.horn = (s.stand i).out.horn := by rw [hx]
    have hctx : (x.stand i).ctx = (s.stand i).ctx := by rw [hx]
    rw [hui]
    simp [State.recordedCtx, he, hc, hhorn, ho, hctx]
  · rw [hui, hx]
    simp [State.recordedCtx, he, ho, State.settledCtx, State.restingFor, hrest, Ne.symm hs]
  · rw [hui, hx]
    simp [State.recordedCtx, he, ho, State.settledCtx, State.restingFor, hs, ha, CtxState.resting]
  · rw [State.tracker_replaceRecord, State.slotInUse_taking, State.tracker_taking]
    simp [State.retuneTracker, Tracker.start, and_comm]

/-- Settles O13. -/
theorem lineAndGroupsReplaced : Obligations.LineAndGroupsReplaced := by
  constructor
  · intro s t f a b c d e more h hv hp x l ok
    have hb : answerPutLine f x = if s.mode = .config then x.putLine l else refuse x .wrongMode :=
      State.answerPutLine_eq hp x
    have hok : lineInRange l x.port.station = true ↔ ok := State.lineInRange_iff l s.port.station
    refine ⟨fun hm => ?_, fun hm hno => ?_, fun hm hyes => ?_⟩
    · exact State.exec_answers h rfl (carries_of_verb hv) (by rw [hb, if_neg hm]; rfl)
    · refine State.exec_answers h rfl (carries_of_verb hv) ?_
      rw [hb, if_pos hm, State.putLine_eq, if_neg (hno ∘ hok.1)]
      rfl
    · refine ⟨x.withLine l, State.exec_answers h rfl (carries_of_verb hv) ?_, State.withLine_rest x l, fun k => ?_⟩
      · rw [hb, if_pos hm, State.putLine_eq, if_pos (hok.2 hyes)]
        rfl
      · exact State.tracker_withLine x l k
  · intro s t f groups more h hv hp hn x ok
    have hb : answerSetGroups f x = if s.mode = .config then x.setGroups groups.length groups else refuse x .wrongMode :=
      State.answerSetGroups_eq hn hp x
    have hok : (groups.length ≤ 4 ∧ groups.all groupNumber ∧ groups.Nodup) ↔ ok := by
      simp only [ok, List.all_eq_true, State.groupNumber_iff]
    refine ⟨fun hm => ?_, fun hm hno => ?_, fun hm hyes => ?_⟩
    · exact State.exec_answers h rfl (carries_of_verb hv) (by rw [hb, if_neg hm]; rfl)
    · refine State.exec_answers h rfl (carries_of_verb hv) ?_
      rw [hb, if_pos hm, State.setGroups, if_neg (hno ∘ hok.1)]
      rfl
    · refine State.exec_answers h rfl (carries_of_verb hv) ?_
      rw [hb, if_pos hm, State.setGroups, if_pos (hok.2 hyes)]
      rfl

end

section
/-! SUPPORT. The requests that change a reel queue or a running reel, and what a taken one comes to (O14, O15). -/

namespace Sys2Proof

namespace Machine

namespace State

/-! ### Reel ids (R14) -/

theorem idInQueue_iff (s : State) (id : ReelId) (i : StandNo) :
    s.idInQueue id i = true ↔ ∃ r ∈ (s.stand i).queue, r.id = id := by simp [idInQueue]

theorem idRunning_iff (s : State) (id : ReelId) (i : StandNo) :
    s.idRunning id i = true ↔ ∃ r, (s.stand i).running = some r ∧ r.id = id := by simp [idRunning, Option.any_eq_true]

/-- A free reel id is not known (R14). -/
theorem idKnown_of_free {s : State} {id : ReelId} (h : s.IdFreeBut id none) : s.idKnown id = false := by
  rw [Bool.eq_false_iff]
  intro hk
  obtain ⟨j, -, hj⟩ := List.any_eq_true.1 hk
  obtain ⟨hq, hr⟩ := h j
  rcases Bool.or_eq_true_iff.1 hj with hj | hj
  · obtain ⟨r, hm, he⟩ := (idInQueue_iff s id j).1 hj
    exact hq r hm he
  · obtain ⟨r, hm, he⟩ := (idRunning_iff s id j).1 hj
    exact hr (by simp) r hm he

/-- An id that is free but for the stand's own running reel is not known elsewhere (R19). -/
theorem idKnownBut_of_free {s : State} {id : ReelId} {i : StandNo} (h : s.IdFreeBut id (some i)) :
    s.idKnownBut id i = false := by
  rw [Bool.eq_false_iff]
  intro hk
  obtain ⟨j, -, hj⟩ := List.any_eq_true.1 hk
  obtain ⟨hq, hr⟩ := h j
  rcases Bool.or_eq_true_iff.1 hj with hj | hj
  · obtain ⟨r, hm, he⟩ := (idInQueue_iff s id j).1 hj
    exact hq r hm he
  · obtain ⟨hj, hne⟩ := Bool.and_eq_true_iff.1 hj
    obtain ⟨r, hm, he⟩ := (idRunning_iff s id j).1 hj
    exact hr (by simpa using hne) r hm he

theorem IdFreeBut.taking {s : State} {id : ReelId} {o : Option StandNo} (h : s.IdFreeBut id o) (t : Time) (f : Frame) :
    (s.taking t f).IdFreeBut id o := by
  intro j
  rw [stand_taking]
  exact h j

/-- The one stand whose queue holds an id is found (R16). -/
theorem queueHolding_eq {s : State} {id : ReelId} {i : StandNo} (h : ∃ r ∈ (s.stand i).queue, r.id = id)
    (ho : ∀ j, j ≠ i → ∀ r ∈ (s.stand j).queue, r.id ≠ id) : s.queueHolding id = some i := by
  have hi : s.idInQueue id i = true := (idInQueue_iff s id i).2 h
  have honly : ∀ j, s.idInQueue id j = true → j = i := by
    intro j hj
    refine Decidable.byContradiction fun hne => ?_
    obtain ⟨r, hm, he⟩ := (idInQueue_iff s id j).1 hj
    exact ho j hne r hm he
  cases hf : s.queueHolding id with
  | none => exact absurd hi (List.find?_eq_none.1 hf i (mem_allStands i))
  | some j => rw [honly j (List.find?_some hf)]

/-- The record of an id leaves its queue; those behind it close up, not ready (R16). -/
theorem withoutReel_append (r : ReelRecord) (pre post : List ReelRecord) (h : ∀ a ∈ pre, a.id ≠ r.id) :
    withoutReel r.id (pre ++ r :: post) = pre ++ post.map fun a => { a with ready := false } := by
  induction pre with
  | nil => simp [withoutReel]
  | cons a pre ih =>
    rw [List.forall_mem_cons] at h
    rw [List.cons_append, withoutReel, if_neg h.1, ih h.2]
    rfl

/-- An optional field passes when every value it carries lies in the range. -/
theorem optionalWithin_iff (lo hi : Nat) (o : Option Nat) :
    optionalWithin lo hi o = true ↔ ∀ v, o = some v → lo ≤ v ∧ v ≤ hi := by
  cases o <;> simp [optionalWithin, within]

/-- A change of one stand to `y`, and the settling of its context. -/
theorem settledAs_modStand {s : State} {i : StandNo} {y : Stand} (f : Stand → Stand) (h : f (s.stand i) = y) :
    SettledAs i y s ((s.modStand i f).settle i) := h ▸ settled_modStand s i f

/-! ### ADD REEL, DROP REEL and MARK READY -/

theorem answerAddReel_held {f : Frame} {x : State} {i : StandNo} {l : ControlLock} (hl : 11 ≤ f.payload.length)
    (hi : f.payload.head? = some (BitVec.ofNat 8 (i.val + 1))) (hk : (x.stand i).lock = some l) (hne : l.holder ≠ f.sender) :
    answerAddReel f x = ⟨x, .locked, [BitVec.ofNat 8 (i.val + 1), l.holder]⟩ := by
  unfold answerAddReel
  rw [needLength_long hl, needStand_named hi, needLock_held hk hne]

/-- An ADD REEL that passes its checks puts the record at the tail of the queue, not ready, and settles (R15, R21). -/
theorem answerAddReel_taken {f : Frame} {x : State} {i : StandNo} {g : Fin 32} {gr : GradeRecord} {d tab : Option Nat}
    (hl : 11 ≤ f.payload.length) (hi : f.payload.head? = some (BitVec.ofNat 8 (i.val + 1)))
    (hd : optionalField ((byteAt f.payload 6).getLsbD 0) (u16 f.payload 7) = d)
    (ht : optionalField ((byteAt f.payload 6).getLsbD 1) (u16 f.payload 9) = tab)
    (hk : x.LockPasses i f.sender) (hid : w32 f.payload 1 ≠ 0) (hg : u8 f.payload 5 = g.val) (hgr : x.grades[g] = some gr)
    (hrt : optionalWithin 0 999 tab = true) (hrd : optionalWithin (gr.spliceDiameter + 1000) 14000 d = true)
    (hfree : x.IdFreeBut (w32 f.payload 1) none) (hroom : (x.stand i).queue.length < 3) :
    answerAddReel f x = grant ((x.modStand i fun y =>
      { y with queue := y.queue ++ [⟨w32 f.payload 1, g, d, tab, false⟩] }).settle i) := by
  unfold answerAddReel
  rw [needLength_long hl, needStand_named hi, needLock_passes hk]
  simp only [hg, gradeOf_val, hd, ht, if_pos (And.intro hid hrt), addReel, hgr, if_pos hrd, idKnown_of_free hfree]
  exact if_pos hroom

theorem answerDropReel_eq {f : Frame} {x : State} {i : StandNo} (hl : 4 ≤ f.payload.length)
    (hrun : ∀ j a, (x.stand j).running = some a → a.id ≠ w32 f.payload 0)
    (hq : ∃ r ∈ (x.stand i).queue, r.id = w32 f.payload 0)
    (ho : ∀ j, j ≠ i → ∀ r ∈ (x.stand j).queue, r.id ≠ w32 f.payload 0) :
    answerDropReel f x = needLock f i x fun _ => x.dropReel i (w32 f.payload 0) := by
  have hnone : (allStands.any fun j => x.idRunning (w32 f.payload 0) j) = false := by
    rw [Bool.eq_false_iff]
    intro h
    obtain ⟨j, -, hj⟩ := List.any_eq_true.1 h
    obtain ⟨a, ha, he⟩ := (idRunning_iff x _ j).1 hj
    exact hrun j a ha he
  unfold answerDropReel
  rw [needLength_long hl]
  simp only [hnone, queueHolding_eq hq ho]
  rfl

theorem headHeld_iff (c : CtxState) : headHeld c = true ↔ c.splicing = true ∨ c = .stopping := by simp [headHeld]

/-- The reel to drop is the head when no record stands before it. -/
theorem head_is_dropped {s : State} {i : StandNo} {pre post : List ReelRecord} {r : ReelRecord}
    (hq : (s.stand i).queue = pre ++ r :: post) (hpre : ∀ a ∈ pre, a.id ≠ r.id) :
    (s.head i).any (fun a => a.id == r.id) = true ↔ pre = [] := by
  unfold head
  rw [hq]
  cases pre with
  | nil => simp
  | cons a pre =>
    have ha := hpre a List.mem_cons_self
    simp [ha]

theorem answerMarkReady_eq {f : Frame} {x : State} {i : StandNo} {r : ReelRecord} {rest : List ReelRecord}
    (hl : 5 ≤ f.payload.length) (hi : f.payload.head? = some (BitVec.ofNat 8 (i.val + 1)))
    (hid : r.id = w32 f.payload 1) (hq : (x.stand i).queue = r :: rest) (hk : x.LockPasses i f.sender) :
    answerMarkReady f x = if (x.stand i).ctx.state = .stopping then refuse x .wrongState
      else grant ((x.modStand i fun y =>
        { y with queue := y.queue.modifyHead fun a => { a with ready := true } }).settle i) := by
  have hin : x.idInQueue (w32 f.payload 1) i = true := (idInQueue_iff x _ i).2 ⟨r, by simp [hq], hid⟩
  have hhead : (x.head i).any (fun a => a.id == w32 f.payload 1) = true := by simp [head, hq, hid]
  unfold answerMarkReady
  rw [needLength_long hl, needStand_named hi, needLock_passes hk, markReady, if_pos hin, hhead]
  by_cases hs : (x.stand i).ctx.state = .stopping
  · simp [hs]
  · simp [hs]

/-! ### SET RUNNING -/

/-- A SET RUNNING whose stand, lock, grade and diameter pass its checks (R19). -/
theorem answerSetRunning_reel {f : Frame} {x : State} {i : StandNo} {g : Fin 32} {gr : GradeRecord} {d : Option Nat}
    (hl : 9 ≤ f.payload.length) (hi : f.payload.head? = some (BitVec.ofNat 8 (i.val + 1))) (hk : x.LockPasses i f.sender)
    (hd : optionalField ((byteAt f.payload 6).getLsbD 0) (u16 f.payload 7) = d) (hid : w32 f.payload 1 ≠ 0)
    (hg : u8 f.payload 5 = g.val) (hgr : x.grades[g] = some gr) (hrd : optionalWithin gr.core 14000 d = true) :
    answerSetRunning f x = if (x.stand i).ctx.state.resting then
        if x.idKnownBut (w32 f.payload 1) i then refuse x .duplicate
        else grant (x.installRunning i ⟨w32 f.payload 1, g⟩ (d.getD gr.nominal))
      else refuse x .inUse := by
  unfold answerSetRunning
  rw [needLength_long hl, needStand_named hi, needLock_passes hk]
  simp only [if_neg hid, hg, gradeOf_val, hd, setRunning, hgr, if_pos hrd]

theorem answerSetRunning_zero {f : Frame} {x : State} {i : StandNo} (hl : 9 ≤ f.payload.length)
    (hi : f.payload.head? = some (BitVec.ofNat 8 (i.val + 1))) (hk : x.LockPasses i f.sender) (hid : w32 f.payload 1 = 0) :
    answerSetRunning f x = x.clearRunning i := by
  unfold answerSetRunning
  rw [needLength_long hl, needStand_named hi, needLock_passes hk]
  exact if_pos hid

/-- A resting state is none before fire (section 4.1). -/
theorem beforeFire_of_resting {c : CtxState} (h : c.resting = true) : c.beforeFire = false := by
  revert h
  cases c <;> decide

/-- The stand with a running reel installed at this diameter, D_run held (R19). -/
def installed (x : Stand) (r : RunningReel) (d : Nat) : Stand :=
  { x with running := some r, dRun := d, measured := false, runoutFired := false }

section

variable {s : State} {i : StandNo} {r : RunningReel} {gr : GradeRecord} {d : Nat}

theorem runningGrade_installed (hgr : s.grades[r.grade] = some gr) :
    (s.modStand i fun x => installed x r d).runningGrade i = gr := by
  simp only [runningGrade, stand_modStand, if_true, installed, grade, grades_modStand, hgr, Option.getD_some]

/-- Above the runout limit the installation fires no runout (R51). -/
theorem installRunning_above (hgr : s.grades[r.grade] = some gr) (hd : gr.core + gr.runoutMargin < d) :
    s.installRunning i r d = (s.modStand i fun x => installed x r d).settle i := by
  have h := (runoutCheck_spec (s.modStand i fun x => installed x r d) i).1
  rw [runningGrade_installed hgr] at h
  have hy : (s.modStand i fun x => installed x r d).stand i = installed (s.stand i) r d := by simp
  rw [hy] at h
  exact congrArg (fun x : State => x.settle i) (h fun ⟨_, _, hle⟩ => Nat.not_lt.2 hle hd)

/-- At or below the runout limit the mark is set and RUNOUT latched (R51). -/
theorem stand_installRunning_runout (hrest : (s.stand i).ctx.state.resting = true) (hgr : s.grades[r.grade] = some gr)
    (hd : d ≤ gr.core + gr.runoutMargin) : ∃ (c : Context) (o : Output), (s.installRunning i r d).stand i =
      { installed (s.stand i) r d with
        runoutFired := true, events := withEvent (s.stand i).events .runout, ctx := c, out := o } := by
  have h := (runoutCheck_spec (s.modStand i fun x => installed x r d) i).2
  rw [runningGrade_installed hgr] at h
  have hy : (s.modStand i fun x => installed x r d).stand i = installed (s.stand i) r d := by simp
  rw [hy] at h
  have hb : (installed (s.stand i) r d).ctx.state.beforeFire = false := beforeFire_of_resting hrest
  have hst := ((h ⟨by simp [installed], rfl, hd⟩).2 hb).1
  obtain ⟨horn, hs⟩ := stand_settle ((s.modStand i fun x => installed x r d).runoutCheck i) i i
  rw [if_pos rfl, hst] at hs
  exact ⟨_, _, hs⟩

end

theorem hasEvent_withEvent (e : EventSet) (k : EventKind) : hasEvent (withEvent e k) k = true := by
  unfold hasEvent withEvent
  rw [BitVec.getLsbD_or, BitVec.getLsbD_twoPow]
  cases k <;> simp [EventKind.code]

end State

end Machine

end Sys2Proof

open Sys2Proof.Machine Sys2Proof.Machine.State

/-- Settles O14. -/
theorem reelQueueRequests : Obligations.ReelQueueRequests := by
  refine ⟨?_, ?_, ?_⟩
  · intro s t f i g gr h hv hl hi p x d tab
    refine ⟨fun l hk hne => ?_, fun hk hid hg hgr htab hd hfree hroom => ?_⟩
    · exact exec_answers h rfl (carries_of_verb hv) (answerAddReel_held hl hi (lock_taking_other hk hne t) hne)
    · have hx : (x.stand i).queue = (s.stand i).queue := by rw [stand_taking]
      have hb := answerAddReel_taken (x := x) hl hi rfl rfl (hk.taking t) hid hg hgr
        ((optionalWithin_iff _ _ _).2 fun v hv => ⟨Nat.zero_le v, htab v hv⟩) ((optionalWithin_iff _ _ _).2 hd)
        (hfree.taking t f) (by rw [hx]; exact hroom)
      refine ⟨_, exec_answers h rfl (carries_of_verb hv) hb, ?_⟩
      exact settledAs_modStand _ (by rw [← hx]; rfl)
  · intro s t f i pre post r h hv hl hid hq hpre hother hrun hk x held
    have hx : x.stand i = { s.stand i with lock := (x.stand i).lock } := by rw [stand_taking]
    have hxq : (x.stand i).queue = pre ++ r :: post := by rw [hx]; exact hq
    have hb : answerDropReel f x = x.dropReel i r.id := by
      rw [answerDropReel_eq hl (i := i), needLock_passes (hk.taking t), hid]
      · intro j a ha
        rw [stand_taking] at ha
        rw [← hid]
        exact hrun j a ha
      · exact ⟨r, by simp [hxq], hid⟩
      · intro j hj a ha
        rw [stand_taking] at ha
        rw [← hid]
        exact hother j hj a ha
    have hheld : ((x.head i).any (fun a => a.id == r.id) && headHeld (x.stand i).ctx.state) = true ↔ pre = [] ∧ held := by
      rw [Bool.and_eq_true, head_is_dropped hxq hpre, headHeld_iff, hx]
    refine ⟨fun hp hh => ?_, fun hn => ?_⟩
    · exact exec_answers h rfl (carries_of_verb hv) (by rw [hb, dropReel, if_pos (hheld.2 ⟨hp, hh⟩)]; rfl)
    · refine ⟨_, exec_answers h rfl (carries_of_verb hv) (by rw [hb, dropReel, if_neg (hn ∘ hheld.1)]; rfl), ?_⟩
      exact settledAs_modStand _ (by rw [hxq, withoutReel_append r pre post hpre])
  · intro s t f i r rest h hv hl hi hid hq hk x
    have hx : x.stand i = { s.stand i with lock := (x.stand i).lock } := by rw [stand_taking]
    have hb := answerMarkReady_eq (x := x) hl hi hid (by rw [hx]; exact hq) (hk.taking t)
    refine ⟨fun hs => ?_, fun hs => ?_⟩
    · exact exec_answers h rfl (carries_of_verb hv) (by rw [hb, if_pos (by rw [hx]; exact hs)]; rfl)
    · refine ⟨_, exec_answers h rfl (carries_of_verb hv) (by rw [hb, if_neg (by rw [hx]; exact hs)]; rfl), ?_⟩
      exact settledAs_modStand _ (by rw [hx]; simp [hq])

/-- Settles O15. -/
theorem setRunningInstallsReel : Obligations.SetRunningInstallsReel := by
  intro s t f i h hv hl hi hk p x d
  have hx : x.stand i = { s.stand i with lock := (x.stand i).lock } := by rw [stand_taking]
  have hrx : (x.stand i).ctx.state.resting = (s.stand i).ctx.state.resting := by rw [hx]
  refine ⟨fun g gr hid hg hgr hd => ?_, fun hid hrest => ?_⟩
  · have hb := answerSetRunning_reel (x := x) hl hi (hk.taking t) rfl hid hg hgr ((optionalWithin_iff _ _ _).2 hd)
    refine ⟨fun hrest => ?_, fun hrest hfree => ?_⟩
    · exact exec_answers h rfl (carries_of_verb hv) (by rw [hb, hrx, hrest]; rfl)
    have hu : exec (.setRunning t) s =
        .next ((x.installRunning i ⟨w32 p 1, g⟩ (d.getD gr.nominal)).replied f .accepted []) := by
      refine exec_answers h rfl (carries_of_verb hv) ?_
      rw [hb, hrx, hrest, if_pos rfl, idKnownBut_of_free (hfree.taking t f)]
      rfl
    refine ⟨fun hn => ⟨_, hu, ?_⟩, fun hn => ⟨_, hu, ?_⟩⟩
    · rw [installRunning_above (by exact hgr) hn]
      exact settledAs_modStand _ rfl
    · obtain ⟨c, o, hs⟩ := stand_installRunning_runout (s := x) (r := ⟨w32 p 1, g⟩) (hrx.trans hrest) hgr hn
      rw [hs]
      exact ⟨rfl, rfl, rfl, rfl, hasEvent_withEvent _ _⟩
  · have hb : answerSetRunning f x =
        grant ((x.modStand i fun y => { y with running := none, measured := false }).settle i) := by
      rw [answerSetRunning_zero hl hi (hk.taking t) hid, clearRunning, hrx, hrest]
      rfl
    exact ⟨_, exec_answers h rfl (carries_of_verb hv) hb, settledAs_modStand _ rfl⟩

end

section
/-! SUPPORT. The refusals that come before a request's own checks (O9). -/

namespace Sys2Proof

namespace Machine

namespace State

/-- A taken request of the right length that names no stand (R2). -/
theorem exec_outside {s : State} {f : Frame} (h : s.CanTake f) {t : Time} {c : Instr} {takes : Frame → Bool} {ask : Bool}
    {body : Frame → State → Answer} (hc : exec c s = .next ((s.setClock t).handle takes ask body)) (ht : takes f = true)
    {n : Nat} {k : StandNo → Answer} {b : Byte}
    (hb : body f (s.taking t f) = needLength f n (s.taking t f) fun _ => needStand (u8 f.payload 0) (s.taking t f) k)
    (hl : n ≤ f.payload.length) (hp : f.payload.head? = some b) (ho : b.toNat = 0 ∨ 6 < b.toNat) :
    exec c s = .next ((s.taking t f).replied f .badValue []) := by
  refine exec_answers h hc ht ?_
  rw [hb, needLength_long hl, u8, byteAt_zero hp, needStand_outside ho]
  rfl

/-- A taken request for a stand whose lock another station holds (R169). -/
theorem exec_held {s : State} {f : Frame} (h : s.CanTake f) {t : Time} {c : Instr} {takes : Frame → Bool} {ask : Bool}
    {body : Frame → State → Answer} (hc : exec c s = .next ((s.setClock t).handle takes ask body)) (ht : takes f = true)
    {n : Nat} {k : StandNo → Unit → Answer} {i : StandNo} {l : ControlLock}
    (hb : body f (s.taking t f) = needLength f n (s.taking t f) fun _ => needStand (u8 f.payload 0) (s.taking t f) fun i =>
      needLock f i (s.taking t f) (k i))
    (hl : n ≤ f.payload.length) (hp : f.payload.head? = some (BitVec.ofNat 8 (i.val + 1)))
    (hk : (s.stand i).lock = some l) (hne : l.holder ≠ f.sender) :
    exec c s = .next ((s.taking t f).replied f .locked [BitVec.ofNat 8 (i.val + 1), l.holder]) := by
  refine exec_answers h hc ht ?_
  rw [hb, needLength_long hl, needStand_named hp, needLock_held (lock_taking_other hk hne t) hne]

/-! ### STAND ORDERs -/

/-- A STAND ORDER too short to carry its order code is taken by the row of any order (log entry 4). -/
theorem takesOrder_short {f : Frame} (hv : f.verb = 0x61) (hl : f.payload.length < 2) (code : Nat) :
    takesOrder code f = true := by
  have hn : f.payload[1]? = none := List.getElem?_eq_none (by omega)
  simp [takesOrder, carriesCode, verbStandOrder, hv, hn]

theorem takesOrder_code {f : Frame} {b c : Byte} {more : List Byte} (hv : f.verb = 0x61) (hp : f.payload = b :: c :: more) :
    takesOrder c.toNat f = true := by
  simp [takesOrder, carriesCode, verbStandOrder, hv, hp]

theorem orderSteps_short {f : Frame} (hl : f.payload.length < 2) (x : State) (code : Nat) (ok : Bool) (k : Unit → Answer) :
    orderSteps f x code ok k = refuse x .badValue := needLength_short hl _

/-- A STAND ORDER that carries its code, in a mode that allows it, comes to its stand. -/
theorem orderSteps_passes {f : Frame} {b c : Byte} {more : List Byte} (hp : f.payload = b :: c :: more) (x : State)
    (k : Unit → Answer) : orderSteps f x c.toNat true k = k () := by
  have hc : u8 f.payload 1 = c.toNat := by rw [hp]; rfl
  unfold orderSteps
  rw [needLength_long (by rw [hp]; simp), if_pos hc, if_pos rfl]

/-- What a STAND ORDER that needs the lock comes to once its code and the mode pass. -/
theorem lockedOrder_eq {f : Frame} {b c : Byte} {more : List Byte} (hp : f.payload = b :: c :: more) {x : State}
    {ok : State → Bool} (hok : ok x = true) (act : State → StandNo → Answer) :
    lockedOrder c.toNat ok act f x = needLength f 2 x fun _ => needStand (u8 f.payload 0) x fun i =>
      needLock f i x fun _ => act x i := by
  unfold lockedOrder
  rw [hok, orderSteps_passes hp, needLength_long (by rw [hp]; simp)]

/-- The STAND ORDERs that need the lock, with their codes and mode conditions (R63, R68, R100). -/
def lockedOrders (s : State) (t : Time) : List (Instr × Byte × Prop) :=
  [(.standOrderAutoOn t, 1, s.mode ≠ .config), (.standOrderAutoOff t, 2, True), (.standOrderSpliceNow t, 3, s.mode = .run),
    (.standOrderManualTrackOn t, 5, s.mode = .run), (.standOrderManualTrackOff t, 6, s.mode = .run)]

/-- Each of them is handled as a STAND ORDER of its code that needs the lock, and its mode condition passes. -/
theorem exec_lockedOrders {s : State} {t : Time} {r : Instr × Byte × Prop} (hr : r ∈ lockedOrders s t) (hm : r.2.2)
    (f : Frame) : ∃ ok act, ok (s.taking t f) = true ∧ exec r.1 s =
      .next ((s.setClock t).handle (takesOrder r.2.1.toNat) false (lockedOrder r.2.1.toNat ok act)) := by
  simp only [lockedOrders, List.mem_cons, List.not_mem_nil, or_false] at hr
  rcases hr with rfl | rfl | rfl | rfl | rfl
  · exact ⟨fun s => !(s.mode == .config), autoOn, by simpa using hm, rfl⟩
  · exact ⟨fun _ => true, autoOff, rfl, rfl⟩
  · exact ⟨fun s => s.mode == .run, spliceNow, by simpa using hm, rfl⟩
  · exact ⟨fun s => s.mode == .run, manualOn, by simpa using hm, rfl⟩
  · exact ⟨fun s => s.mode == .run, manualOff, by simpa using hm, rfl⟩

theorem answerAbort_eq {f : Frame} {b : Byte} {more : List Byte} (hp : f.payload = b :: 4 :: more) (x : State) :
    answerAbort f x = needLength f 2 x fun _ => needStand (u8 f.payload 0) x fun i => x.abortOrder i := by
  rw [needLength_long (by rw [hp]; simp)]
  exact orderSteps_passes hp x _

/-! ### The rest -/

theorem answerTakeControl_outside {f : Frame} {b : Byte} (hp : f.payload.head? = some b) (ho : b.toNat = 0 ∨ 6 < b.toNat)
    (x : State) : answerTakeControl f x = ⟨x, .badValue, [b, Config.holderOfNoStand b]⟩ := by
  obtain ⟨more, hp⟩ : ∃ more, f.payload = b :: more := List.head?_eq_some_iff.1 hp
  simp [answerTakeControl, noStandAnswer, hp, standOf_outside ho]

theorem answerGiveControl_outside {f : Frame} {b : Byte} (hp : f.payload.head? = some b) (ho : b.toNat = 0 ∨ 6 < b.toNat)
    (x : State) : answerGiveControl f x = ⟨x, .badValue, [b, Config.holderOfNoStand b]⟩ := by
  obtain ⟨more, hp⟩ : ∃ more, f.payload = b :: more := List.head?_eq_some_iff.1 hp
  simp [answerGiveControl, noStandAnswer, hp, standOf_outside ho]

theorem takesLatch_events {f : Frame} {more : List Byte} (hv : f.verb = 0x64) (hp : f.payload = 1 :: more) :
    takesLatch 1 f = true := by
  simp [takesLatch, carriesCode, verbClearLatch, hv, hp]

/-- CLEAR LATCH with kind events that names no stand is refused, be it too short or not (R158, R2). -/
theorem answerClearEvents_outside {f : Frame} {b : Byte} {more : List Byte} (hp : f.payload = 1 :: b :: more)
    (ho : b.toNat = 0 ∨ 6 < b.toNat) (x : State) : answerClearEvents f x = refuse x .badValue := by
  have h0 : u8 f.payload 0 = 1 := by rw [hp]; rfl
  have h1 : u8 f.payload 1 = b.toNat := by rw [hp]; rfl
  unfold answerClearEvents
  rw [needLength_long (by rw [hp]; simp), if_pos h0, h1, needStand_outside ho]
  exact ite_self _

end State

end Machine

end Sys2Proof

open Sys2Proof Sys2Proof.Machine Sys2Proof.Machine.State

/-- Settles O9. -/
theorem requestsRefusedFirst : Obligations.RequestsRefusedFirst := by
  intro s t f h x atLeast named locked run orders
  refine ⟨?_, ?_, ?_, ?_, ?_, ?_⟩
  · intro r hr hv hl
    simp only [atLeast, List.mem_cons, List.not_mem_nil, or_false] at hr
    rcases hr with rfl | rfl | rfl | rfl | rfl | rfl | rfl | rfl | rfl | rfl | rfl | rfl | rfl | rfl | rfl | rfl | rfl | rfl
    iterate 11 exact exec_answers h rfl (carries_of_verb hv) (needLength_short hl _)
    · exact exec_answers h rfl (takesOrder_short hv hl 1) (orderSteps_short hl x 1 _ _)
    · exact exec_answers h rfl (takesOrder_short hv hl 2) (orderSteps_short hl x 2 _ _)
    · exact exec_answers h rfl (takesOrder_short hv hl 3) (orderSteps_short hl x 3 _ _)
    · exact exec_answers h rfl (takesOrder_short hv hl 4) (orderSteps_short hl x 4 _ _)
    · exact exec_answers h rfl (takesOrder_short hv hl 5) (orderSteps_short hl x 5 _ _)
    · exact exec_answers h rfl (takesOrder_short hv hl 6) (orderSteps_short hl x 6 _ _)
    · exact exec_answers h rfl (carries_of_verb hv) (needLength_short (Nat.lt_of_lt_of_le hl (Nat.le_add_right 1 _)) _)
  · intro r hr b hv hl hp ho
    simp only [named, List.mem_cons, List.not_mem_nil, or_false] at hr
    rcases hr with rfl | rfl | rfl | rfl | rfl | rfl
    all_goals exact exec_outside h rfl (carries_of_verb hv) rfl hl hp ho
  · intro b hp ho
    exact ⟨fun hv => ⟨_, _, exec_answers h rfl (carries_of_verb hv) (answerTakeControl_outside hp ho x)⟩,
      fun hv => ⟨_, _, exec_answers h rfl (carries_of_verb hv) (answerGiveControl_outside hp ho x)⟩⟩
  · intro r b more hr hok hv hp ho
    have hl : 2 ≤ f.payload.length := by simp [hp]
    have hb : f.payload.head? = some b := by simp [hp]
    rcases List.mem_cons.1 hr with rfl | hr
    · exact exec_outside h rfl (takesOrder_code hv hp) (answerAbort_eq hp x) hl hb ho
    · obtain ⟨ok, act, hx, hc⟩ := exec_lockedOrders (t := t) hr hok f
      exact exec_outside h hc (takesOrder_code hv hp) (lockedOrder_eq hp hx act) hl hb ho
  · intro b more hv hp ho
    exact exec_answers h rfl (takesLatch_events hv hp) (answerClearEvents_outside hp ho x)
  · intro i l hk hne n
    refine ⟨?_, ?_, ?_⟩
    · intro r hr hv hl hp
      simp only [locked, List.mem_cons, List.not_mem_nil, or_false] at hr
      rcases hr with rfl | rfl | rfl
      all_goals exact exec_held h rfl (carries_of_verb hv) rfl hl hp hk hne
    · intro hv hl hq ho hrun
      have hx (j : StandNo) : x.stand j = { s.stand j with lock := (x.stand j).lock } := by rw [stand_taking]
      refine exec_answers h rfl (carries_of_verb hv) ?_
      rw [answerDropReel_eq hl (i := i), needLock_held (lock_taking_other hk hne t) hne]
      · intro j a ha
        rw [hx] at ha
        exact hrun j a ha
      · rw [hx]
        exact hq
      · intro j hj a ha
        rw [hx] at ha
        exact ho j hj a ha
    · intro r hr hok more hv hp
      obtain ⟨ok, act, hx, hc⟩ := exec_lockedOrders (t := t) hr hok f
      exact exec_held h hc (takesOrder_code hv hp) (lockedOrder_eq hp hx act) (by simp [hp]) (by simp [hp, n]) hk hne

end

section
/-! SUPPORT. The layout of the replies to the requests that read (section 10.4), field by field (O6). -/

namespace Sys2Proof

namespace Machine

/-! ### Fields in a list of bytes -/

theorem byteAt_append_left {p q : List Byte} {k : Nat} (h : k < p.length) : byteAt (p ++ q) k = byteAt p k := by
  simp [byteAt, List.getD_eq_getElem?_getD, List.getElem?_append_left h]

theorem byteAt_append_right (p q : List Byte) (k : Nat) : byteAt (p ++ q) (p.length + k) = byteAt q k := by
  simp [byteAt, List.getD_eq_getElem?_getD, List.getElem?_append_right]

theorem length_pos_of_head {p : List Byte} {b : Byte} (h : p.head? = some b) : 1 ≤ p.length := by
  obtain ⟨more, rfl⟩ := List.head?_eq_some_iff.1 h
  simp

/-- The length of a list of entries of `n` bytes each. -/
theorem length_entries {α : Type} {e : α → List Byte} {n : Nat} (h : ∀ a, (e a).length = n) (l : List α) :
    (l.flatMap e).length = n * l.length := by
  induction l with
  | nil => rfl
  | cons a l ih => rw [List.flatMap_cons, List.length_append, h, ih, List.length_cons, Nat.mul_succ, Nat.add_comm]

/-- A byte of one of the entries of a list of entries of `n` bytes each. -/
theorem byteAt_entries {α : Type} {e : α → List Byte} {n : Nat} (h : ∀ a, (e a).length = n) {l : List α} {k : Nat}
    (hk : k < l.length) {j : Nat} (hj : j < n) : byteAt (l.flatMap e) (n * k + j) = byteAt (e l[k]) j := by
  induction l generalizing k with
  | nil => cases hk
  | cons a l ih =>
    rw [List.flatMap_cons]
    cases k with
    | zero =>
      rw [Nat.mul_zero, Nat.zero_add]
      exact byteAt_append_left (by rw [h]; exact hj)
    | succ k =>
      have e1 : n * (k + 1) + j = (e a).length + (n * k + j) := by rw [h, Nat.mul_succ]; omega
      rw [e1, byteAt_append_right]
      exact ih (Nat.lt_of_succ_lt_succ hk)

/-- The two bytes of a 16-bit word make it up again. -/
theorem bytes_b16 (w : BitVec 16) : w.extractLsb' 8 8 ++ w.extractLsb' 0 8 = w := by
  rw [BitVec.extractLsb'_append_extractLsb'_eq_extractLsb' (by rfl)]
  exact BitVec.extractLsb'_eq_self

/-- The four bytes of a 32-bit word make it up again. -/
theorem bytes_b4 (w : BitVec 32) : w32 (b4 w) 0 = w := by
  have h : w.extractLsb' 16 16 ++ w.extractLsb' 0 16 = w := by
    rw [BitVec.extractLsb'_append_extractLsb'_eq_extractLsb' (by rfl)]
    exact BitVec.extractLsb'_eq_self
  exact (congr (congrArg (· ++ ·) (bytes_b16 _)) (bytes_b16 _)).trans h

/-! ### Flag bytes -/

theorem testBit_flagBits (l : List Bool) (k : Nat) : (flagBits l).testBit k = l.getD k false := by
  induction l generalizing k with
  | nil => simp [flagBits]
  | cons b l ih =>
    cases k with
    | zero => cases b <;> simp [flagBits, Nat.testBit_zero]
    | succ k =>
      have h : (b.toNat + 2 * flagBits l) / 2 = flagBits l := by
        have := b.toNat_lt
        omega
      rw [flagBits, Nat.testBit_succ, h, ih]
      rfl

/-- A bit of a byte of flags (section 10.4). -/
theorem flagByte_bit (l : List Bool) (k : Fin 8) : (BitVec.ofNat 8 (flagBits l)).getLsbD k.val = l.getD k.val false := by
  rw [BitVec.getLsbD_ofNat, testBit_flagBits, decide_eq_true k.isLt, Bool.true_and]

/-- A bit above the grade number in a byte that holds a grade number in its low five bits. -/
theorem gradeByte_bit (g : Fin 32) (l : List Bool) {k : Nat} (hk : k < 3) :
    (BitVec.ofNat 8 (g.val + 32 * flagBits l)).getLsbD (5 + k) = l.getD k false := by
  have h : (g.val + 32 * flagBits l).testBit (5 + k) = (flagBits l).testBit k := by
    have hlow : ¬ 5 + k < 5 := by omega
    rw [Nat.add_comm]
    refine (Nat.testBit_two_pow_mul_add (i := 5) _ g.isLt _).trans ((if_neg hlow).trans ?_)
    rw [Nat.add_sub_cancel_left]
  rw [BitVec.getLsbD_ofNat, h, testBit_flagBits, decide_eq_true (by omega), Bool.true_and]

theorem gradeByte_grade (g : Fin 32) (l : List Bool) : (BitVec.ofNat 8 (g.val + 32 * flagBits l)).toNat % 32 = g.val := by
  rw [BitVec.toNat_ofNat]
  omega

namespace State

/-! ### ASK STATUS -/

/-- The three bytes of a stand in ASK STATUS's reply. -/
def statusEntry (s : State) (i : StandNo) : List Byte :=
  [BitVec.ofNat 8 (s.stand i).ctx.state.code, holderByte (s.stand i),
    BitVec.ofNat 8 (flagBits [(s.stand i).out.latch, !((s.stand i).events == 0)])]

theorem byteAt_statusData (s : State) (i : StandNo) {j : Nat} (hj : j < 3) :
    byteAt (statusData s) (4 + (3 * i.val + j)) = byteAt (s.statusEntry i) j := by
  have hi : allStands[i.val]'i.isLt = i := by
    revert i
    decide
  exact (byteAt_append_right (b1 s.mode.code ++ [s.port.station] ++ b16 s.nextSeq) (allStands.flatMap s.statusEntry) _).trans
    ((byteAt_entries (n := 3) (fun _ => rfl) i.isLt hj).trans (congrArg (fun k => byteAt (s.statusEntry k) j) hi))

/-! ### ASK STAND -/

theorem byteAt_standData_flags (s : State) (i : StandNo) (k : Fin 8) : (byteAt (standData s i) 2).getLsbD k.val =
    match k.val with
      | 0 => (s.stand i).ctx.auto
      | 1 => (s.stand i).loop.locked
      | 2 => decide ((s.stand i).loop.mode = .track)
      | 3 => (s.stand i).measured
      | 4 => (s.stand i).out.latch
      | _ => false := by
  refine (flagByte_bit [(s.stand i).ctx.auto, (s.stand i).loop.locked, (s.stand i).loop.mode == .track,
    (s.stand i).measured, (s.stand i).out.latch] k).trans ?_
  match k with
  | 0 | 1 | 2 | 3 | 4 | 5 | 6 | 7 => rfl

theorem byteAt_standData_tracker (s : State) (i : StandNo) : byteAt (standData s i) 7 =
    if s.slotInUse (s.stand i).record.webSlot = false then 0
    else match (s.tracker (s.stand i).record.webSlot).state with
      | .none => 0
      | .acquiring => 1
      | .tracking => 2
      | .coasting => 3
      | .lost => 4 := by
  show BitVec.ofNat 8 (if s.slotInUse (s.stand i).record.webSlot then (s.trackerOf i).state else TrackState.none).code = _
  unfold trackerOf
  cases s.slotInUse (s.stand i).record.webSlot
  · rfl
  · cases (s.tracker (s.stand i).record.webSlot).state <;> rfl

/-! ### ASK GRADE -/

/-- Three of the fields of a defined grade, at their offsets. -/
theorem gradeData_words (s : State) (g : Fin 32) (r : GradeRecord) (h : s.grades[g] = some r) :
    w16 (gradeData s g) 2 = BitVec.ofNat 16 r.caliper ∧ w16 (gradeData s g) 8 = BitVec.ofNat 16 r.spliceDiameter ∧
      w16 (gradeData s g) 24 = BitVec.ofNat 16 r.correctionLimit := by
  have he : gradeData s g = b1 g.val ++ b1 1 ++ gradeBytes r := by
    simp only [gradeData, grade, h]
    rfl
  simp only [he, gradeBytes, b1, b2, b16, w16, byteAt, List.cons_append, List.nil_append, List.getD_cons_succ,
    List.getD_cons_zero, bytes_b16, and_self]

theorem gradeData_undefined (s : State) (g : Fin 32) (h : s.grades[g] = none) (n : Nat) (hn : 2 ≤ n) :
    byteAt (gradeData s g) n = 0 := by
  have he : gradeData s g = BitVec.ofNat 8 g.val :: 0 :: List.replicate 24 0 := by
    simp only [gradeData, grade, h]
    rfl
  obtain ⟨m, rfl⟩ := Nat.exists_eq_add_of_le' hn
  rw [he]
  show (List.replicate 24 (0 : Byte)).getD m 0 = 0
  rw [List.getD_eq_getElem?_getD, List.getElem?_replicate]
  split <;> rfl

/-! ### ASK QUEUE -/

/-- The grade number of the stand's running reel, 0 when it is absent. -/
def shownGrade (x : Stand) : Fin 32 := (x.running.map fun r => r.grade).getD 0

/-- ASK QUEUE's data up to the reel records. -/
def queueHead (s : State) (i : StandNo) : List Byte :=
  let x := s.stand i
  b1 (standNumber i) ++ b1 ((shownGrade x).val + 32 * flagBits [x.running.isSome, x.measured]) ++ b4 (s.runningId i) ++
    b2 x.dRun ++ b1 x.queue.length

theorem queueData_eq (s : State) (i : StandNo) :
    queueData s i = s.queueHead i ++ (s.stand i).queue.flatMap reelBytes := by
  unfold queueData queueHead shownGrade
  dsimp only
  cases (s.stand i).running <;> rfl

theorem byteAt_queueHead (s : State) (i : StandNo) {k : Nat} (hk : k < 9) :
    byteAt (queueData s i) k = byteAt (s.queueHead i) k := by
  rw [queueData_eq]
  exact byteAt_append_left hk

theorem byteAt_queueEntry (s : State) (i : StandNo) {n : Nat} (h : n < (s.stand i).queue.length) {j : Nat} (hj : j < 9) :
    byteAt (queueData s i) (9 + (9 * n + j)) = byteAt (reelBytes (s.stand i).queue[n]) j := by
  rw [queueData_eq]
  exact (byteAt_append_right (s.queueHead i) _ _).trans (byteAt_entries (n := 9) (fun _ => rfl) h hj)

theorem length_queueData (s : State) (i : StandNo) : (queueData s i).length = 9 + 9 * (s.stand i).queue.length := by
  rw [queueData_eq, List.length_append, length_entries (n := 9) fun _ => rfl]
  rfl

/-- The byte of ASK QUEUE's data with the running reel's grade and the marks. -/
theorem byteAt_queueData_marks (s : State) (i : StandNo) : byteAt (queueData s i) 1 =
    BitVec.ofNat 8 ((shownGrade (s.stand i)).val + 32 * flagBits [(s.stand i).running.isSome, (s.stand i).measured]) :=
  byteAt_queueHead s i (by omega)

theorem queueData_runningId (s : State) (i : StandNo) : w32 (queueData s i) 2 =
    match (s.stand i).running with
    | none => 0
    | some r => r.id := by
  refine (bytes_b4 (s.runningId i)).trans ?_
  unfold runningId
  cases (s.stand i).running <;> rfl

/-- The bytes of one reel record in ASK QUEUE's reply. -/
theorem queueEntry_fields (s : State) (i : StandNo) (n : Nat) (h : n < (s.stand i).queue.length) :
    let r := (s.stand i).queue[n]
    let marks := byteAt (queueData s i) (13 + 9 * n)
    w32 (queueData s i) (9 + 9 * n) = r.id ∧ marks.toNat % 32 = r.grade.val ∧ marks.getLsbD 5 = r.diameter.isSome ∧
      marks.getLsbD 6 = r.tab.isSome ∧ marks.getLsbD 7 = r.ready ∧
      w16 (queueData s i) (14 + 9 * n) = BitVec.ofNat 16 (r.diameter.getD 0) ∧
      w16 (queueData s i) (16 + 9 * n) = BitVec.ofNat 16 (r.tab.getD 0) := by
  intro r marks
  have hbyte (m j : Nat) (hj : j < 9) (hm : m = 9 + (9 * n + j)) : byteAt (queueData s i) m = byteAt (reelBytes r) j := by
    rw [hm]
    exact byteAt_queueEntry s i h hj
  have hword (m j : Nat) (hj : j < 8) (hm : m = 9 + (9 * n + j)) : w16 (queueData s i) m = w16 (reelBytes r) j := by
    rw [w16, hbyte m j (by omega) hm, hbyte (m + 1) (j + 1) (by omega) (by omega), w16]
  have hmarks : marks = BitVec.ofNat 8 (r.grade.val + 32 * flagBits [r.diameter.isSome, r.tab.isSome, r.ready]) :=
    hbyte _ 4 (by omega) (by omega)
  refine ⟨?_, ?_, ?_, ?_, ?_, ?_, ?_⟩
  · rw [w32, hword _ 0 (by omega) (by omega), hword _ 2 (by omega) (by omega)]
    exact bytes_b4 r.id
  · rw [hmarks, gradeByte_grade]
  · rw [hmarks]
    exact gradeByte_bit r.grade _ (k := 0) (by omega)
  · rw [hmarks]
    exact gradeByte_bit r.grade _ (k := 1) (by omega)
  · rw [hmarks]
    exact gradeByte_bit r.grade _ (k := 2) (by omega)
  · rw [hword _ 5 (by omega) (by omega)]
    exact bytes_b16 _
  · rw [hword _ 7 (by omega) (by omega)]
    exact bytes_b16 _

/-! ### The taken requests -/

theorem answerAskStand_eq {f : Frame} {i : StandNo} (hi : f.payload.head? = some (BitVec.ofNat 8 (i.val + 1))) (x : State) :
    answerAskStand f x = ⟨x, .accepted, standData x i⟩ := by
  unfold answerAskStand
  rw [needLength_long (length_pos_of_head hi), needStand_named hi]

theorem answerAskQueue_eq {f : Frame} {i : StandNo} (hi : f.payload.head? = some (BitVec.ofNat 8 (i.val + 1))) (x : State) :
    answerAskQueue f x = ⟨x, .accepted, queueData x i⟩ := by
  unfold answerAskQueue
  rw [needLength_long (length_pos_of_head hi), needStand_named hi]

theorem answerAskGrade_eq {f : Frame} {g : Fin 32} (hg : f.payload.head? = some (BitVec.ofNat 8 g.val)) (x : State) :
    answerAskGrade f x = ⟨x, .accepted, gradeData x g⟩ := by
  unfold answerAskGrade
  rw [needLength_long (length_pos_of_head hg), u8_zero_grade hg]
  simp only [gradeOf_val]

end State

end Machine

end Sys2Proof

open Sys2Proof Sys2Proof.Machine Sys2Proof.Machine.State

/-- Settles O6. -/
theorem readsAnswerAndChangeNothing : Obligations.ReadsAnswerAndChangeNothing := by
  refine ⟨fun s t f h => ⟨fun hv => ?_, fun i hv hi => ?_, fun g hv hg => ?_, fun i hv hi => ?_, fun hv => ?_⟩,
    fun s i g => ⟨rfl, rfl, rfl, ?_, ?_, ?_, rfl, bytes_b16 _, ?_, ?_, ?_, rfl, rfl, byteAt_standData_flags s i,
      byteAt_standData_tracker s i, rfl, bytes_b16 _, bytes_b16 _, bytes_b16 _, ?_, ?_, gradeData_undefined s g, rfl,
      ?_, ?_, ?_, ?_, ?_, bytes_b16 _, rfl, queueEntry_fields s i, rfl, rfl, rfl, rfl⟩⟩
  · exact exec_answers h rfl (carries_of_verb hv) rfl
  · exact exec_answers h rfl (carries_of_verb hv) (answerAskStand_eq hi _)
  · exact exec_answers h rfl (carries_of_verb hv) (answerAskGrade_eq hg _)
  · exact exec_answers h rfl (carries_of_verb hv) (answerAskQueue_eq hi _)
  · exact exec_answers h rfl (carries_of_verb hv) rfl
  · exact length_queueData s i
  · simp [lineData, b1, b2, b16]; omega
  · show BitVec.ofNat 8 s.mode.code = _
    cases s.mode <;> rfl
  · exact byteAt_statusData s i (j := 0) (by omega)
  · rw [show 5 + 3 * i.val = 4 + (3 * i.val + 1) by omega, byteAt_statusData s i (by omega)]
    rfl
  · rw [show 6 + 3 * i.val = 4 + (3 * i.val + 2) by omega, byteAt_statusData s i (by omega)]
    show BitVec.ofNat 8 (flagBits [(s.stand i).out.latch, !((s.stand i).events == 0)]) = _
    by_cases he : (s.stand i).events = 0
    · rw [if_pos he, he]
      cases (s.stand i).out.latch <;> rfl
    · rw [if_neg he, beq_eq_false_iff_ne.2 he]
      cases (s.stand i).out.latch <;> rfl
  · show BitVec.ofNat 8 (s.grades[g]).isSome.toNat = _
    cases s.grades[g] <;> simp
  · exact fun r => gradeData_words s g r
  · rw [byteAt_queueData_marks, gradeByte_grade, shownGrade]
    cases (s.stand i).running <;> rfl
  · rw [byteAt_queueData_marks]
    exact gradeByte_bit _ _ (k := 0) (by omega)
  · rw [byteAt_queueData_marks]
    exact gradeByte_bit _ _ (k := 1) (by omega)
  · rw [byteAt_queueData_marks]
    exact gradeByte_bit _ _ (k := 2) (by omega)
  · exact queueData_runningId s i

end

section
/-! SUPPORT. How a tracker judges a sample, and where its V places the web: the branches of R29 to R34 and of R39 (O25, O27). -/

namespace Sys2Proof

namespace Machine

namespace Tracker

/-! ### The extrapolated position (R39) -/

/-- Outside NONE and LOST the position runs on from the anchor by V over the time since. -/
theorem position_of_live {k : Tracker} (h : k.state = .acquiring ∨ k.state = .tracking ∨ k.state = .coasting) (t : Time) :
    k.position t = k.anchor + BitVec.ofNat 32 (k.v * elapsed k.anchorTime t / 100000) := by
  unfold position
  rcases h with h | h | h <;> rw [h]

/-- A position and a distance, added modulo 2^32. -/
theorem anchor_add (a : Pos) (n : Nat) : a + BitVec.ofNat 32 n = BitVec.ofNat 32 (a.toNat + n) := by
  rw [BitVec.ofNat_add, BitVec.ofNat_toNat, BitVec.setWidth_eq]

/-! ### The judging of a sample (R29 to R34) -/

/-- The window count stays at 255 (log entry 13). -/
theorem counted_eq_min (k : Tracker) : k.counted = min 255 (k.windowCount + 1) := by
  unfold counted capNat
  split <;> omega

/-- V clamped to 0 through 16,000 mm/s. -/
theorem clampInt_speed (v : Int) : (clampInt 0 16000 v).toNat = (max 0 (min 16000 v)).toNat := by
  unfold clampInt
  repeat' split
  all_goals omega

section

variable {k : Tracker} (n : Byte) (lt : Time) (p : Pos) (now : Time) (rate : Nat)

theorem sample_of_idle (h : k.state = .none ∨ k.state = .lost) :
    k.sample n lt p now rate = (k.anchorOn n lt p now, .anchored) := by
  unfold sample
  rcases h with h | h <;> rw [h]

/-- In ACQUIRING, TRACKING and COASTING a sample is ignored by its number, or measured (R29). -/
theorem sample_of_live (h : k.state = .acquiring ∨ k.state = .tracking ∨ k.state = .coasting) :
    k.sample n lt p now rate =
      if (n - k.lastNumber).toNat = 0 ∨ 128 ≤ (n - k.lastNumber).toNat then (k, .silent) else k.measure n lt p now rate := by
  unfold sample
  rcases h with h | h | h <;> rw [h]

/-- The sample fails the checks of R31, or outside ACQUIRING the plausibility check of R33. -/
def Implausible (k : Tracker) (lt : Time) (p : Pos) (rate : Nat) : Prop :=
  let dt := (lt - k.lastLineTime).toNat
  let vm := ((p - k.anchor).toInt * 100000).tdiv dt
  dt = 0 ∨ 1000000 < dt ∨ vm < 0 ∨ (k.state ≠ .acquiring ∧ rate * dt / 1000000 + 50 < (vm - k.v).natAbs)

theorem measure_of_implausible {lt : Time} {p : Pos} {rate : Nat} (h : k.Implausible lt p rate) :
    k.measure n lt p now rate = k.reject n lt p now := by
  unfold Implausible at h
  unfold measure measured limit elapsed
  dsimp only at h ⊢
  split
  · rfl
  · rename_i hdt
    split
    · rfl
    · rename_i hvm
      obtain ⟨hacq, hlimit⟩ : k.state ≠ .acquiring ∧ _ :=
        ((h.resolve_left (by omega)).resolve_left (by omega)).resolve_left hvm
      rw [if_neg hacq, if_pos hlimit]

/-- A sample within the limits of R31 is plausible in ACQUIRING, and elsewhere within the limit of R33. -/
theorem not_implausible {lt : Time} {p : Pos} {rate : Nat} :
    let dt := (lt - k.lastLineTime).toNat
    let vm := ((p - k.anchor).toInt * 100000).tdiv dt
    1 ≤ dt → dt ≤ 1000000 → 0 ≤ vm →
      k.state = .acquiring ∨ (vm - k.v).natAbs ≤ rate * dt / 1000000 + 50 → ¬ k.Implausible lt p rate := by
  rintro dt vm hdt hlong hvm hnear (h | h | h | ⟨hstate, hfar⟩)
  · omega
  · omega
  · exact absurd h (Int.not_lt.2 hvm)
  · exact absurd hfar (Nat.not_lt.2 (hnear.resolve_left hstate))

/-- The V that an accepted sample of this measured speed gives, before its clamp: the speed itself in ACQUIRING, else V moved
a quarter of the way (R32, R33). -/
def movedSpeed (k : Tracker) (vm : Int) : Int := if k.state = .acquiring then vm else k.v + (vm - k.v).tdiv 4

theorem measure_of_plausible {lt : Time} {p : Pos} {rate : Nat} (h : ¬ k.Implausible lt p rate) :
    k.measure n lt p now rate =
      let dt := (lt - k.lastLineTime).toNat
      k.accept n lt p now (k.movedSpeed (((p - k.anchor).toInt * 100000).tdiv dt)) dt := by
  simp only [Implausible, not_or] at h
  obtain ⟨hdt, hlong, hvm, hlimit⟩ := h
  unfold measure measured limit elapsed movedSpeed
  dsimp only
  rw [if_neg (by omega), if_neg hvm]
  split
  · rfl
  · rename_i hacq
    rw [if_neg fun hfar => hlimit ⟨hacq, hfar⟩]

/-- The tracker after an accepted sample (R32, R33, R35). -/
theorem accept_eq (v : Int) (dt : Nat) : k.accept n lt p now v dt = ({ k with
    state := .tracking, lastNumber := n, lastLineTime := lt, anchor := p, anchorTime := now
    v := (max 0 (min 16000 v)).toNat, rejectRun := 0, windowCount := min 255 (k.windowCount + 1)
    coastingAt := some (now + 30000), lostAt := some (now + 250000) }, .accepted dt) := by
  rw [accept, clampInt_speed, counted_eq_min]
  rfl

theorem anchorOn_eq : k.anchorOn n lt p now = { k with
    state := .acquiring, lastNumber := n, lastLineTime := lt, anchor := p, anchorTime := now, v := 0, rejectRun := 0
    windowCount := min 255 (k.windowCount + 1)
    coastingAt := none, lostAt := some (now + 250000)
    windowAt := if k.state = .none then some (now + 100000) else k.windowAt } := by
  rw [anchorOn, counted_eq_min]
  rfl

/-- The first and second rejection in a row raise the reject run alone (R34). -/
theorem reject_of_run (h : k.rejectRun < 2) : k.reject n lt p now = ({ k with rejectRun := k.rejectRun + 1 }, .silent) :=
  if_pos (by omega)

/-- The third rejection in a row makes the sample the anchor and keeps V (R34). -/
theorem reject_of_third (h : k.rejectRun = 2) : k.reject n lt p now = ({ k with
    state := .acquiring, lastNumber := n, lastLineTime := lt, anchor := p, anchorTime := now, rejectRun := 0
    windowCount := min 255 (k.windowCount + 1)
    coastingAt := none, lostAt := some (now + 250000) }, .reacquired) := by
  rw [reject, if_neg (by omega), counted_eq_min]
  rfl

end

end Tracker

end Machine

end Sys2Proof

open Sys2Proof.Machine

/-- Settles O27, by the state of the tracker. -/
theorem extrapolatedPosition : Obligations.ExtrapolatedPosition := by
  intro k t hnone hlost
  cases h : k.state with
  | none =>
    obtain ⟨hv, ha⟩ := hnone h
    simp [Tracker.position, h, hv, ha]
  | lost =>
    simp [Tracker.position, h, hlost h]
  | acquiring | tracking | coasting =>
    simp [Tracker.position_of_live, h, Tracker.anchor_add, elapsed]

/-- Settles O25, by the branch of R29 to R34 that the sample falls in. -/
theorem trackerJudgesSamples : Obligations.TrackerJudgesSamples := by
  constructor
  · intro k n lt p now rate dn dt vm live taken
    refine ⟨fun hidle => ?_, fun hlive hdn => ?_, fun h1 h127 hdt hlong hvm => ⟨fun hacq => ?_, fun hrun hnear => ?_⟩⟩
    · rw [Tracker.sample_of_idle n lt p now rate hidle, Tracker.anchorOn_eq]
    · rw [Tracker.sample_of_live n lt p now rate hlive, if_pos hdn]
    · have hgood : ¬ k.Implausible lt p rate := Tracker.not_implausible hdt hlong hvm (.inl hacq)
      have hv : (max 0 (min 16000 vm)).toNat = min 16000 vm.toNat := by omega
      rw [Tracker.sample_of_live n lt p now rate (.inl hacq), if_neg (by omega), Tracker.measure_of_plausible n now hgood]
      dsimp only
      rw [Tracker.accept_eq, Tracker.movedSpeed, if_pos hacq, hv]
    · have hgood : ¬ k.Implausible lt p rate := Tracker.not_implausible hdt hlong hvm (.inr hnear)
      have hacq : k.state ≠ .acquiring := by rcases hrun with h | h <;> simp [h]
      refine ⟨_, Int.toNat_of_nonneg (Int.le_max_left _ _), ?_⟩
      rw [Tracker.sample_of_live n lt p now rate (.inr hrun), if_neg (by omega), Tracker.measure_of_plausible n now hgood]
      dsimp only
      rw [Tracker.accept_eq, Tracker.movedSpeed, if_neg hacq]
  · intro k n lt p now rate dn dt vm hlive h1 h127 hbad
    rw [Tracker.sample_of_live n lt p now rate hlive, if_neg (by omega), Tracker.measure_of_implausible n now hbad]
    exact ⟨Tracker.reject_of_run n lt p now, Tracker.reject_of_third n lt p now⟩

end

section
/-! SUPPORT. Which commands write a tracker, and that every one of them keeps V, the reject run and the V of LOST in range
(O57). -/

namespace Sys2Proof

namespace Machine

/-! ### One tracker (R25, R37) -/

/-- V within 0 to 16,000, the reject run within 0 to 2, and V 0 in LOST. -/
def Tracker.InRange (k : Tracker) : Prop := k.v ≤ 16000 ∧ k.rejectRun ≤ 2 ∧ (k.state = .lost → k.v = 0)

namespace Tracker

theorem start_inRange : Tracker.start.InRange := ⟨Nat.zero_le _, Nat.zero_le _, fun _ => rfl⟩

/-- The tracker after its COASTING expiry in TRACKING (R36). -/
def coasted (k : Tracker) : Tracker := { k with coastingAt := none, state := .coasting }

/-- The tracker after its LOST expiry in ACQUIRING, TRACKING or COASTING (R37). -/
def dropped (k : Tracker) : Tracker := { k with lostAt := none, coastingAt := none, state := .lost, v := 0 }

/-- The tracker after a window close, with its low-window mark (R38). -/
def windowClosed (k : Tracker) (now : Time) (low : Bool) : Tracker :=
  { k with windowAt := some (now + 100000), windowCount := 0, lowWindow := low }

theorem coasted_inRange {k : Tracker} : k.InRange → k.coasted.InRange :=
  fun ⟨hv, hrun, _⟩ => ⟨hv, hrun, fun e => by cases e⟩

theorem dropped_inRange {k : Tracker} : k.InRange → k.dropped.InRange :=
  fun ⟨_, hrun, _⟩ => ⟨Nat.zero_le _, hrun, fun _ => rfl⟩

theorem windowClosed_inRange {k : Tracker} (h : k.InRange) (now : Time) (low : Bool) :
    (k.windowClosed now low).InRange := h

theorem anchorOn_inRange (k : Tracker) (n : Byte) (lt : Time) (p : Pos) (now : Time) :
    (k.anchorOn n lt p now).InRange := ⟨Nat.zero_le _, Nat.zero_le _, fun _ => rfl⟩

theorem accept_inRange (k : Tracker) (n : Byte) (lt : Time) (p : Pos) (now : Time) (v : Int) (dt : Nat) :
    (k.accept n lt p now v dt).1.InRange := by
  rw [accept_eq]
  exact ⟨by dsimp only; omega, Nat.zero_le _, fun h => by cases h⟩

/-- A rejection keeps V, and the run goes back to 0 where it would reach 3 (R34). -/
theorem reject_inRange {k : Tracker} (h : k.InRange) (n : Byte) (lt : Time) (p : Pos) (now : Time) :
    (k.reject n lt p now).1.InRange := by
  obtain ⟨hv, hrun, hlost⟩ := h
  rcases Nat.lt_or_eq_of_le hrun with hrun | hrun
  · rw [reject_of_run n lt p now hrun]
    exact ⟨hv, hrun, hlost⟩
  · rw [reject_of_third n lt p now hrun]
    exact ⟨hv, Nat.zero_le _, fun h => by cases h⟩

theorem measure_inRange {k : Tracker} (h : k.InRange) (n : Byte) (lt : Time) (p : Pos) (now : Time) (rate : Nat) :
    (k.measure n lt p now rate).1.InRange := by
  by_cases hbad : k.Implausible lt p rate
  · rw [measure_of_implausible n now hbad]
    exact reject_inRange h n lt p now
  · rw [measure_of_plausible n now hbad]
    exact accept_inRange k n lt p now _ _

theorem sample_inRange {k : Tracker} (h : k.InRange) (n : Byte) (lt : Time) (p : Pos) (now : Time) (rate : Nat) :
    (k.sample n lt p now rate).1.InRange := by
  unfold sample
  split
  · exact anchorOn_inRange k n lt p now
  · exact anchorOn_inRange k n lt p now
  all_goals
    dsimp only
    split
    · exact h
    · exact measure_inRange h n lt p now rate

end Tracker

namespace State

/-! ### The trackers of the part -/

/-- The step from `s` to `t` keeps the trackers in range. -/
def RangeKept (s t : State) : Prop := s.TrackersInRange → t.TrackersInRange

theorem RangeKept.refl (s : State) : RangeKept s s := id

theorem RangeKept.trans {s t u : State} (h : RangeKept s t) (k : RangeKept t u) : RangeKept s u := k ∘ h

/-- A step after which each tracker is in range, given that it was. -/
theorem RangeKept.of_each {s t : State} (h : ∀ k, (s.tracker k).InRange → (t.tracker k).InRange) : RangeKept s t :=
  fun hs k => h k (hs k)

theorem RangeKept.of_trackers {s t : State} (h : t.trackers = s.trackers) : RangeKept s t :=
  .of_each fun k hk => by rw [State.tracker, h]; exact hk

theorem Swept.rangeKept {s t : State} (h : Swept s t) : RangeKept s t := .of_trackers h.trackers

theorem OwnChange.rangeKept {i : StandNo} {s t : State} (h : OwnChange i s t) : RangeKept s t := .of_trackers h.trackers

theorem TxOnly.rangeKept {s t : State} (h : TxOnly s t) : RangeKept s t := .of_trackers h.trackers

theorem forStands_rangeKept (o : List StandNo) (f : StandNo → State → State) (h : ∀ i x, OwnChange i x (f i x))
    (s : State) : RangeKept s (forStands o f s) :=
  forStands_keeps o f (RangeKept s) (fun i x hx => hx.trans (h i x).rangeKept) s (.refl s)

theorem setTracker_rangeKept (s : State) (k : SlotNo) (x : Tracker) (h : (s.tracker k).InRange → x.InRange) :
    RangeKept s (s.setTracker k x) :=
  .of_each fun j hj => by
    rw [tracker_setTracker]
    split
    · rename_i e
      subst e
      exact h hj
    · exact hj

theorem retuneTracker_inRange {k : Tracker} (h : k.InRange) (before now : Bool) :
    (retuneTracker before now k).InRange := by
  unfold retuneTracker
  repeat' split
  · exact Tracker.start_inRange
  · exact h
  · exact h

/-! ### Requests of one stand (R174) -/

section

variable (s : State) (i : StandNo)

theorem changeSettled_own (f : Stand → Stand) : OwnChange i s ((s.modStand i f).settle i) :=
  (modStand_own s i f).trans (settle_own _ i)

theorem autoOn_own : OwnChange i s (s.autoOn i).state := by
  unfold autoOn
  split
  · exact .refl i s
  · exact changeSettled_own s i _

theorem autoOff_own : OwnChange i s (s.autoOff i).state := by
  unfold autoOff
  split
  · exact .refl i s
  · exact changeSettled_own s i _

theorem spliceNow_own : OwnChange i s (s.spliceNow i).state := by
  have hearly (x : State) : OwnChange i x (x.setEarly i) := modCtx_own x i _
  unfold spliceNow
  split
  · split
    · exact (enterRunUp_own s i).trans (hearly _)
    · exact .refl i s
  · exact hearly s
  · exact (hearly s).trans (enterFireWait_own _ i)
  all_goals exact .refl i s

theorem abortOrder_own : OwnChange i s (s.abortOrder i).state := by
  unfold abortOrder
  split
  · exact abort_own s i _
  · exact abort_own s i _
  · exact abort_own s i _
  · exact abort_own s i _
  all_goals exact .refl i s

theorem manualOn_own : OwnChange i s (s.manualOn i).state := by
  have h : OwnChange i s (if (s.stand i).loop.manual then s
      else s.modLoop i fun l => { l with manual := true, mode := .track }) := by
    split
    · exact .refl i s
    · exact modLoop_own s i _
  unfold manualOn
  split
  · exact h
  · exact h
  all_goals exact .refl i s

theorem manualOff_own : OwnChange i s (s.manualOff i).state := by
  have h : OwnChange i s (if (s.stand i).loop.manual then
      s.modLoop i fun l => { l with manual := false, mode := if l.locked then .track else .acquire } else s) := by
    split
    · exact modLoop_own s i _
    · exact .refl i s
  unfold manualOff
  split
  · exact h
  · exact h
  all_goals exact .refl i s

theorem addReel_own (r : ReelRecord) : OwnChange i s (s.addReel i r).state := by
  unfold addReel
  repeat' split
  · exact .refl i s
  · exact .refl i s
  · exact changeSettled_own s i _
  all_goals exact .refl i s

theorem dropReel_own (id : ReelId) : OwnChange i s (s.dropReel i id).state := by
  unfold dropReel
  split
  · exact .refl i s
  · exact changeSettled_own s i _

theorem markReady_own (id : ReelId) : OwnChange i s (s.markReady i id).state := by
  unfold markReady
  repeat' split
  · exact changeSettled_own s i _
  · exact .refl i s
  · exact .refl i s

theorem installRunning_own (r : RunningReel) (d : Nat) : OwnChange i s (s.installRunning i r d) :=
  (modStand_own s i _).trans ((runoutCheck_own _ i).trans (settle_own _ i))

theorem setRunning_own (r : RunningReel) (d : Option Nat) : OwnChange i s (s.setRunning i r d).state := by
  unfold setRunning
  repeat' split
  · exact .refl i s
  · exact .refl i s
  · exact installRunning_own s i r _
  all_goals exact .refl i s

theorem clearRunning_own : OwnChange i s (s.clearRunning i).state := by
  unfold clearRunning
  split
  · exact changeSettled_own s i _
  · exact .refl i s

theorem takeControl_own (f : Frame) : OwnChange i s (s.takeControl f i).state := by
  unfold takeControl
  split
  · dsimp only [controlAnswer]
    exact modStand_own s i _
  · exact .refl i s

theorem giveControl_own (f : Frame) : OwnChange i s (s.giveControl f i).state := by
  unfold giveControl
  repeat' split
  · exact .refl i s
  · dsimp only [controlAnswer]
    exact modStand_own s i _
  · exact .refl i s

theorem clearInterlock_own : OwnChange i s (s.clearInterlock i).state := by
  unfold clearInterlock
  dsimp only
  repeat' split
  · exact .refl i s
  · dsimp only [grant]
    exact modOut_own s i _
  · exact .refl i s

theorem clearMarks_own (codes : List Nat) : OwnChange i s (s.clearMarks i codes).state := by
  unfold clearMarks
  split
  · dsimp only [grant]
    exact modStand_own s i _
  · exact .refl i s

end

/-! ### The answers to requests -/

theorem lockedOrder_rangeKept (code : Nat) (ok : State → Bool) (act : State → StandNo → Answer)
    (h : ∀ x i, OwnChange i x (act x i).state) (f : Frame) (s : State) :
    RangeKept s (lockedOrder code ok act f s).state :=
  orderSteps_state (.refl s) (needStand_state (.refl s) fun i => needLock_state (.refl s) (h s i).rangeKept)

theorem answerAbort_rangeKept (f : Frame) (s : State) : RangeKept s (answerAbort f s).state :=
  orderSteps_state (.refl s) (needStand_state (.refl s) fun i => (abortOrder_own s i).rangeKept)

theorem answerAddReel_rangeKept (f : Frame) (s : State) : RangeKept s (answerAddReel f s).state := by
  refine needLength_state (.refl s) (needStand_state (.refl s) fun i => needLock_state (.refl s) ?_)
  dsimp only
  repeat' split
  · exact .refl s
  · exact (addReel_own s i _).rangeKept
  · exact .refl s

theorem answerDropReel_rangeKept (f : Frame) (s : State) : RangeKept s (answerDropReel f s).state := by
  refine needLength_state (.refl s) ?_
  dsimp only
  repeat' split
  · exact .refl s
  · exact .refl s
  · exact needLock_state (.refl s) (dropReel_own s _ _).rangeKept

theorem answerMarkReady_rangeKept (f : Frame) (s : State) : RangeKept s (answerMarkReady f s).state :=
  needLength_state (.refl s) (needStand_state (.refl s) fun i =>
    needLock_state (.refl s) (markReady_own s i _).rangeKept)

theorem answerSetRunning_rangeKept (f : Frame) (s : State) : RangeKept s (answerSetRunning f s).state := by
  refine needLength_state (.refl s) (needStand_state (.refl s) fun i => needLock_state (.refl s) ?_)
  repeat' split
  · exact (clearRunning_own s i).rangeKept
  · exact .refl s
  · exact (setRunning_own s i _ _).rangeKept

theorem answerTakeControl_rangeKept (f : Frame) (s : State) : RangeKept s (answerTakeControl f s).state := by
  unfold answerTakeControl
  repeat' split
  · exact .refl s
  · exact .refl s
  · exact (takeControl_own s _ f).rangeKept

theorem answerGiveControl_rangeKept (f : Frame) (s : State) : RangeKept s (answerGiveControl f s).state := by
  unfold answerGiveControl
  repeat' split
  · exact .refl s
  · exact .refl s
  · exact (giveControl_own s _ f).rangeKept

theorem answerClearInterlock_rangeKept (f : Frame) (s : State) : RangeKept s (answerClearInterlock f s).state := by
  refine needLength_state (.refl s) ?_
  split
  · exact needStand_state (.refl s) fun i => (clearInterlock_own s i).rangeKept
  · exact .refl s

theorem answerClearEvents_rangeKept (f : Frame) (s : State) : RangeKept s (answerClearEvents f s).state := by
  refine needLength_state (.refl s) ?_
  split
  · exact needLength_state (.refl s) (needStand_state (.refl s) fun i => (clearMarks_own s i _).rangeKept)
  · exact .refl s

theorem answerPutGrade_rangeKept (f : Frame) (s : State) : RangeKept s (answerPutGrade f s).state := by
  refine needLength_state (.refl s) ?_
  unfold putGrade
  repeat' split
  · exact .refl s
  · exact .refl s
  · exact .of_trackers rfl
  · exact .refl s

/-- PUT STAND sends a tracker to NONE, or leaves its V and reject run (R26). -/
theorem answerPutStand_rangeKept (f : Frame) (s : State) : RangeKept s (answerPutStand f s).state := by
  refine needLength_state (.refl s) (needStand_state (.refl s) fun i => ?_)
  unfold putStand
  repeat' split
  · exact .refl s
  · refine .of_each fun k hk => ?_
    dsimp only [grant]
    rw [tracker_replaceRecord]
    exact retuneTracker_inRange hk _ _
  · exact .refl s
  · exact .refl s

/-- PUT LINE sends every tracker to NONE, or none (R40). -/
theorem answerPutLine_rangeKept (f : Frame) (s : State) : RangeKept s (answerPutLine f s).state := by
  refine needLength_state (.refl s) ?_
  rw [putLine_eq]
  repeat' split
  · refine .of_each fun k hk => ?_
    dsimp only [grant]
    rw [tracker_withLine]
    split
    · exact hk
    · exact Tracker.start_inRange
  · exact .refl s
  · exact .refl s

theorem answerSetGroups_rangeKept (f : Frame) (s : State) : RangeKept s (answerSetGroups f s).state := by
  refine needLength_state (.refl s) ?_
  unfold setGroups
  repeat' split
  · exact .of_trackers rfl
  · exact .refl s
  · exact .refl s

theorem goRun_rangeKept (s : State) (o : List StandNo) : RangeKept s (s.goRun o) :=
  (RangeKept.of_trackers rfl : RangeKept s { s with mode := .run }).trans
    (forStands_rangeKept o _ (fun i x => settle_own x i) _)

theorem goHold_rangeKept (s : State) (o : List StandNo) : RangeKept s (s.goHold o) :=
  (RangeKept.of_trackers rfl : RangeKept s { s with mode := .hold }).trans
    (forStands_rangeKept o _ (fun i x => (abortBeforeFire_own x i .hold).trans (settle_own _ i)) _)

theorem goConfig_rangeKept (s : State) (o : List StandNo) : RangeKept s (s.goConfig o) := by
  refine RangeKept.trans (.of_trackers ?_) (forStands_rangeKept o _ (fun i x => changeSettled_own x i _) _)
  rw [mapStands_rest]

theorem setModeRun_rangeKept (s : State) (o : List StandNo) : RangeKept s (s.setModeRun o).state := by
  unfold setModeRun
  repeat' split
  · exact goRun_rangeKept s o
  · exact .refl s
  · exact goRun_rangeKept s o
  · exact .refl s

theorem setModeHold_rangeKept (s : State) (o : List StandNo) : RangeKept s (s.setModeHold o).state := by
  unfold setModeHold
  split
  · exact goHold_rangeKept s o
  · exact .refl s
  · exact .refl s

theorem setModeConfig_rangeKept (s : State) (o : List StandNo) : RangeKept s (s.setModeConfig o).state := by
  unfold setModeConfig
  repeat' split
  · exact .refl s
  · exact goConfig_rangeKept s o
  · exact .refl s
  · exact goConfig_rangeKept s o
  · exact .refl s

/-- RESTART sends every tracker to NONE (R171). -/
theorem answerRestart_rangeKept (f : Frame) (s : State) : RangeKept s (answerRestart f s).state := by
  unfold answerRestart
  split
  · exact .of_each fun k _ => by
      dsimp only [grant]
      rw [restarted_tracker]
      exact Tracker.start_inRange
  · exact .refl s

/-! ### The request handler -/

theorem modPort_rangeKept (s : State) (f : Port → Port) : RangeKept s (s.modPort f) := .of_trackers rfl

theorem setClock_rangeKept (s : State) (t : Time) : RangeKept s (s.setClock t) := .of_trackers rfl

theorem returnSlot_rangeKept (s : State) : RangeKept s s.returnSlot := by
  unfold returnSlot
  split
  · exact (modPort_rangeKept s _).trans (offer_txOnly _).rangeKept
  · exact .refl s

theorem takeFrame_rangeKept (s : State) (f : Frame) : RangeKept s (s.takeFrame f) :=
  .of_trackers (by rw [takeFrame, refreshLocks, mapStands_rest]; rfl)

/-- A request row keeps the trackers in range when its answer does. -/
theorem handle_rangeKept (s : State) (t : Time) (takes : Frame → Bool) (ask : Bool) {body : Frame → State → Answer}
    (h : ∀ f x, RangeKept x (body f x).state) : RangeKept s ((s.setClock t).handle takes ask body) := by
  have hpop (x : State) : RangeKept x x.popFrame.returnSlot := (modPort_rangeKept x _).trans (returnSlot_rangeKept _)
  refine (setClock_rangeKept s t).trans ?_
  unfold handle
  repeat' split
  · exact .refl _
  · exact (takeFrame_rangeKept _ _).trans ((h _ _).trans (.of_trackers rfl))
  · exact .refl _
  · exact hpop _
  · exact (hpop _).trans (h _ _)
  · exact .refl _

/-- A request row that only reads keeps the trackers in range. -/
theorem handle_rangeKept_of_reads (s : State) (t : Time) (takes : Frame → Bool) (ask : Bool)
    {body : Frame → State → Answer} (h : ∀ f x, (body f x).state = x) :
    RangeKept s ((s.setClock t).handle takes ask body) :=
  handle_rangeKept s t takes ask fun f x => by rw [h]; exact .refl x

theorem discardPartVerb_rangeKept (s : State) : RangeKept s s.discardPartVerb := by
  unfold discardPartVerb
  repeat' split
  · exact .refl s
  · exact (modPort_rangeKept s _).trans (returnSlot_rangeKept _)
  · exact .refl s

/-! ### The commands that write trackers of themselves -/

theorem tellStands_rangeKept (s : State) (k : SlotNo) (o : List StandNo) (f : StandNo → State → State)
    (h : ∀ i x, OwnChange i x (f i x)) : RangeKept s (s.tellStands k o f) :=
  forStands_rangeKept o _ (fun i x => by
    split
    · exact h i x
    · exact .refl i x) s

theorem coastingEnds_rangeKept (s : State) (k : SlotNo) (o : List StandNo) : RangeKept s (s.coastingEnds k o) := by
  have hcoast : RangeKept s (s.setTracker k (s.tracker k).coasted) := setTracker_rangeKept s k _ Tracker.coasted_inRange
  unfold coastingEnds
  dsimp only
  repeat' split
  · exact hcoast.trans (tellStands_rangeKept _ k o _ fun i x => leaveFireSet_own x i)
  · exact setTracker_rangeKept s k { s.tracker k with coastingAt := none } id
  · exact .refl s

theorem lostEnds_rangeKept (s : State) (k : SlotNo) (o : List StandNo) : RangeKept s (s.lostEnds k o) := by
  have hdrop : RangeKept s (s.setTracker k (s.tracker k).dropped) := setTracker_rangeKept s k _ Tracker.dropped_inRange
  have hlost := hdrop.trans (tellStands_rangeKept _ k o (fun i s => (s.raise i .trackLost).abortBeforeFire i .trackLost)
    fun i x => (raise_own x i _).trans (abortBeforeFire_own _ i _))
  have hquiet := setTracker_rangeKept s k { s.tracker k with lostAt := none } id
  unfold lostEnds
  dsimp only
  repeat' split
  · exact hlost
  · exact hlost
  · exact hlost
  · exact hquiet
  · exact hquiet
  · exact .refl s

theorem windowEnds_rangeKept (s : State) (k : SlotNo) (o : List StandNo) : RangeKept s (s.windowEnds k o) := by
  have hclose (low : Bool) : RangeKept s (s.setTracker k ((s.tracker k).windowClosed s.clock low)) :=
    setTracker_rangeKept s k _ fun h => Tracker.windowClosed_inRange h _ _
  unfold windowEnds
  dsimp only
  repeat' split
  · exact (hclose _).trans (tellStands_rangeKept _ k o _ fun i x => raise_own x i _)
  · exact hclose _
  · exact .refl s

/-- A line sample keeps the trackers in range: each makes of it what its own state says, and the stands write none. -/
theorem takeSample_rangeKept (s : State) (p : List Byte) (o : List Matter) : RangeKept s (s.takeSample p o) :=
  .of_each fun k hk => by
    rw [State.tracker, (takeSample_swept s p o).trackers]
    change ((s.mapTrackers fun k _ => (s.sampleSlot p k).1).tracker k).InRange
    rw [mapTrackers_tracker, sampleSlot]
    split
    · exact Tracker.sample_inRange hk _ _ _ _ _
    · exact hk

/-! ### The port -/

theorem arrivalEnds_rangeKept (s : State) (v : Byte) (p : List Byte) (c : Byte) (handOn : Header → State → State)
    (h : ∀ a x, RangeKept x (handOn a x)) : RangeKept s (s.arrivalEnds v p c handOn) := by
  unfold arrivalEnds
  repeat' split
  · exact (modPort_rangeKept s _).trans ((modPort_rangeKept _ _).trans (h _ _))
  · exact modPort_rangeKept s _
  all_goals exact .refl s

theorem handSample_rangeKept (p : List Byte) (o : List Matter) (a : Header) (s : State) :
    RangeKept s (handSample p o a s) := by
  unfold handSample
  split
  · exact takeSample_rangeKept s p o
  · exact .refl s

theorem handHold_rangeKept (o : List StandNo) (a : Header) (s : State) : RangeKept s (handHold o a s) := by
  unfold handHold
  split
  · exact goHold_rangeKept s o
  · exact .refl s
  · exact .refl s

theorem requestEnds_rangeKept (s : State) (p : List Byte) (c : Byte) : RangeKept s (s.requestEnds p c) := by
  unfold requestEnds
  repeat' split
  all_goals exact .of_trackers rfl

theorem headerEnds_rangeKept (s : State) (h : Header) (c : Byte) : RangeKept s (s.headerEnds h c) := by
  unfold headerEnds
  split
  · exact modPort_rangeKept s _
  · exact .refl s

theorem abandonFrame_rangeKept (s : State) (l : List Bool) : RangeKept s (s.abandonFrame l) := by
  unfold abandonFrame
  dsimp only
  split
  · exact .refl s
  · exact modPort_rangeKept s _

theorem becomesIdle_rangeKept (s : State) (l : List Bool) : RangeKept s (s.becomesIdle l) := by
  unfold becomesIdle
  dsimp only
  split
  · exact .refl s
  · exact modPort_rangeKept s _

theorem startsReading_rangeKept (s : State) : RangeKept s s.startsReading := by
  unfold startsReading
  split
  · exact modPort_rangeKept s _
  · exact .refl s

theorem entersStuck_rangeKept (s : State) (l : List Bool) (o : List StandNo) : RangeKept s (s.entersStuck l o) := by
  unfold entersStuck
  dsimp only
  split
  · exact .refl s
  · exact (modPort_rangeKept s _).trans (forStands_rangeKept o _ (fun i x => abortBeforeFire_own x i _) _)

theorem beginsFrame_rangeKept (s : State) (r : List Contestant) : RangeKept s (s.beginsFrame r) := by
  unfold beginsFrame
  repeat' split
  · exact .refl s
  · exact modPort_rangeKept s _
  · exact .refl s

theorem losesContest_rangeKept (s : State) : RangeKept s s.losesContest := by
  unfold losesContest
  repeat' split
  · exact .refl s
  · exact .refl s
  · exact (modPort_rangeKept s _).trans (entryLoses_txOnly _).rangeKept

theorem entryEnds_rangeKept (s : State) (r : TxOutcome) : RangeKept s (s.entryEnds r) := by
  unfold entryEnds
  split
  · exact .refl s
  · exact (handOutcome_swept s _ r).rangeKept.trans ((modPort_rangeKept _ _).trans (offer_txOnly _).rangeKept)

theorem frameEnds_rangeKept (s : State) (e : LineEnd) : RangeKept s (s.frameEnds e) := by
  unfold frameEnds
  repeat' split
  · exact .refl s
  · exact (modPort_rangeKept s _).trans (entryEnds_rangeKept _ _)
  · exact .refl s

theorem convert_rangeKept (s : State) (code : BitVec 12) : RangeKept s (s.convert code) := by
  have hnext : RangeKept s { s with scanNext := s.scanNext + 1 } := .of_trackers rfl
  unfold convert
  dsimp only
  split
  · exact hnext.trans (convertDancer_own _ _ code).rangeKept
  · exact hnext.trans (convertSensor_own _ _ code).rangeKept

/-- Power-on leaves every tracker in NONE (R155). -/
theorem poweredOn_rangeKept (s : State) (pins : Pins) : RangeKept s (s.poweredOn pins) :=
  .of_each fun k _ => by
    have h : (s.poweredOn pins).tracker k = Tracker.start := by
      match k with
      | 0 | 1 | 2 | 3 | 4 | 5 => rfl
    rw [h]
    exact Tracker.start_inRange

/-! ### Every command -/

theorem timed_rangeKept {s u : State} (t : Time) (h : RangeKept (s.setClock t) u) : RangeKept s u :=
  (setClock_rangeKept s t).trans h

theorem own_rangeKept {i : StandNo} {s u : State} (t : Time) (h : OwnChange i (s.setClock t) u) : RangeKept s u :=
  timed_rangeKept t h.rangeKept

/-- Every command keeps the trackers in range. -/
theorem exec_rangeKept (c : Instr) (s : State) : ∃ u, exec c s = .next u ∧ RangeKept s u := by
  cases c with
  | powerOn pins => exact ⟨_, rfl, poweredOn_rangeKept s pins⟩
  | askStatus t => exact ⟨_, rfl, handle_rangeKept_of_reads s t _ _ fun _ _ => rfl⟩
  | askStand t => exact ⟨_, rfl, handle_rangeKept_of_reads s t _ _ answerAskStand_state⟩
  | askGrade t => exact ⟨_, rfl, handle_rangeKept_of_reads s t _ _ answerAskGrade_state⟩
  | askQueue t => exact ⟨_, rfl, handle_rangeKept_of_reads s t _ _ answerAskQueue_state⟩
  | askLog t => exact ⟨_, rfl, handle_rangeKept_of_reads s t _ _ answerAskLog_state⟩
  | askLine t => exact ⟨_, rfl, handle_rangeKept_of_reads s t _ _ fun _ _ => rfl⟩
  | putGrade t => exact ⟨_, rfl, handle_rangeKept s t _ _ answerPutGrade_rangeKept⟩
  | putStand t => exact ⟨_, rfl, handle_rangeKept s t _ _ answerPutStand_rangeKept⟩
  | putLine t => exact ⟨_, rfl, handle_rangeKept s t _ _ answerPutLine_rangeKept⟩
  | setGroups t => exact ⟨_, rfl, handle_rangeKept s t _ _ answerSetGroups_rangeKept⟩
  | addReel t => exact ⟨_, rfl, handle_rangeKept s t _ _ answerAddReel_rangeKept⟩
  | dropReel t => exact ⟨_, rfl, handle_rangeKept s t _ _ answerDropReel_rangeKept⟩
  | markReady t => exact ⟨_, rfl, handle_rangeKept s t _ _ answerMarkReady_rangeKept⟩
  | setRunning t => exact ⟨_, rfl, handle_rangeKept s t _ _ answerSetRunning_rangeKept⟩
  | setModeRun t o =>
    exact ⟨_, rfl, handle_rangeKept s t _ _ fun f x => setMode_state (.refl x) (setModeRun_rangeKept x o)⟩
  | setModeHold t o =>
    exact ⟨_, rfl, handle_rangeKept s t _ _ fun f x => setMode_state (.refl x) (setModeHold_rangeKept x o)⟩
  | setModeConfig t o =>
    exact ⟨_, rfl, handle_rangeKept s t _ _ fun f x => setMode_state (.refl x) (setModeConfig_rangeKept x o)⟩
  | standOrderAutoOn t => exact ⟨_, rfl, handle_rangeKept s t _ _ (lockedOrder_rangeKept 1 _ _ autoOn_own)⟩
  | standOrderAutoOff t => exact ⟨_, rfl, handle_rangeKept s t _ _ (lockedOrder_rangeKept 2 _ _ autoOff_own)⟩
  | standOrderSpliceNow t => exact ⟨_, rfl, handle_rangeKept s t _ _ (lockedOrder_rangeKept 3 _ _ spliceNow_own)⟩
  | standOrderAbort t => exact ⟨_, rfl, handle_rangeKept s t _ _ answerAbort_rangeKept⟩
  | standOrderManualTrackOn t => exact ⟨_, rfl, handle_rangeKept s t _ _ (lockedOrder_rangeKept 5 _ _ manualOn_own)⟩
  | standOrderManualTrackOff t => exact ⟨_, rfl, handle_rangeKept s t _ _ (lockedOrder_rangeKept 6 _ _ manualOff_own)⟩
  | takeControl t => exact ⟨_, rfl, handle_rangeKept s t _ _ answerTakeControl_rangeKept⟩
  | giveControl t => exact ⟨_, rfl, handle_rangeKept s t _ _ answerGiveControl_rangeKept⟩
  | clearLatchInterlock t => exact ⟨_, rfl, handle_rangeKept s t _ _ answerClearInterlock_rangeKept⟩
  | clearLatchEvents t => exact ⟨_, rfl, handle_rangeKept s t _ _ answerClearEvents_rangeKept⟩
  | restart t => exact ⟨_, rfl, handle_rangeKept s t _ _ answerRestart_rangeKept⟩
  | unknownVerb t => exact ⟨_, rfl, handle_rangeKept_of_reads s t _ _ fun _ _ => rfl⟩
  | partVerbDiscarded t => exact ⟨_, rfl, timed_rangeKept t (discardPartVerb_rangeKept _)⟩
  | lineHold t p k o => exact ⟨_, rfl, timed_rangeKept t (arrivalEnds_rangeKept _ _ p k _ (handHold_rangeKept o))⟩
  | lineSample t p k o => exact ⟨_, rfl, timed_rangeKept t (arrivalEnds_rangeKept _ _ p k _ (handSample_rangeKept p o))⟩
  | coastingExpiry t k o => exact ⟨_, rfl, timed_rangeKept t (coastingEnds_rangeKept _ k o)⟩
  | lostExpiry t k o => exact ⟨_, rfl, timed_rangeKept t (lostEnds_rangeKept _ k o)⟩
  | windowClose t k o => exact ⟨_, rfl, timed_rangeKept t (windowEnds_rangeKept _ k o)⟩
  | pulseInputChange t i ch b => exact ⟨_, rfl, own_rangeKept t (inputChanges_own _ i ch b)⟩
  | changeAccepted t i ch b => exact ⟨_, rfl, own_rangeKept t (changeHolds_own _ i ch b)⟩
  | stoppedTimerExpiry t i ch => exact ⟨_, rfl, own_rangeKept t (channelStops_own _ i ch)⟩
  | conversionCompletion t code => exact ⟨_, rfl, timed_rangeKept t (convert_rangeKept _ code)⟩
  | guardOpen t i => exact ⟨_, rfl, own_rangeKept t (guardOpens_own _ i)⟩
  | guardSafe t i => exact ⟨_, rfl, own_rangeKept t (modOut_own _ i _)⟩
  | missingTabExpiry t i => exact ⟨_, rfl, own_rangeKept t (missingTabEnds_own _ i)⟩
  | pasterTimerExpiry t i => exact ⟨_, rfl, own_rangeKept t (pasterEnds_own _ i)⟩
  | knifeTimerExpiry t i => exact ⟨_, rfl, own_rangeKept t (knifeEnds_own _ i)⟩
  | confirmTimerExpiry t i => exact ⟨_, rfl, own_rangeKept t (confirmEnds_own _ i)⟩
  | stoppingTimerExpiry t i => exact ⟨_, rfl, own_rangeKept t (stoppingEnds_own _ i)⟩
  | pasteEndExpiry t i => exact ⟨_, rfl, own_rangeKept t (modOut_own _ i _)⟩
  | knifeEndExpiry t i => exact ⟨_, rfl, own_rangeKept t (modOut_own _ i _)⟩
  | brakeDelayExpiry t i => exact ⟨_, rfl, own_rangeKept t (modOut_own _ i _)⟩
  | brakeHoldExpiry t i => exact ⟨_, rfl, own_rangeKept t (modOut_own _ i _)⟩
  | hornHalfPeriod t i => exact ⟨_, rfl, own_rangeKept t (modOut_own _ i _)⟩
  | prewarnPhase t i => exact ⟨_, rfl, own_rangeKept t (modOut_own _ i _)⟩
  | lockExpiry t i => exact ⟨_, rfl, own_rangeKept t (lockEnds_own _ i)⟩
  | requestFrame t p k => exact ⟨_, rfl, timed_rangeKept t (requestEnds_rangeKept _ p k)⟩
  | transmitBegin m => exact ⟨_, rfl, timed_rangeKept m.t (beginsFrame_rangeKept _ m.rivals)⟩
  | lostArbitration t => exact ⟨_, rfl, timed_rangeKept t (losesContest_rangeKept _)⟩
  | transmitOutcome t e => exact ⟨_, rfl, timed_rangeKept t (frameEnds_rangeKept _ e)⟩
  | busIdle m => exact ⟨_, rfl, timed_rangeKept m.t (becomesIdle_rangeKept _ m.line)⟩
  | stuck m o => exact ⟨_, rfl, timed_rangeKept m.t (entersStuck_rangeKept _ m.line o)⟩
  | startMarkRead t => exact ⟨_, rfl, timed_rangeKept t (startsReading_rangeKept _)⟩
  | headerCheckEnd t h k => exact ⟨_, rfl, timed_rangeKept t (headerEnds_rangeKept _ h k)⟩
  | receptionAbandoned m => exact ⟨_, rfl, timed_rangeKept m.t (abandonFrame_rangeKept _ m.line)⟩

/-- Every step keeps the trackers in range; the queue of waiting commands is none of them. -/
theorem step_rangeKept {s u : State} (h : step s = .next u) : RangeKept s u := by
  unfold step at h
  split at h
  · cases h
    exact .refl s
  · rename_i c rest _
    obtain ⟨v, hv, hk⟩ := exec_rangeKept c { s with pending := rest }
    rw [hv] at h
    cases h
    exact hk

end State

end Machine

end Sys2Proof

open Sys2Proof.Machine

/-- Settles O57: each command that writes a tracker keeps it in range, and the others write none. -/
theorem trackersKeptInRange : Obligations.TrackersKeptInRange := fun _ _ hs h => State.step_rangeKept h hs

end

section
/-! SUPPORT. What the announcements of a tracker do to the stands that name its slot, and the tracker timers that make them
(O26). -/

namespace Sys2Proof

namespace Machine

namespace State

/-! ### What an announcement does to one stand -/

theorem hasEvent_withEvent_of_has {e : EventSet} {k : EventKind} (h : hasEvent e k = true) (j : EventKind) :
    hasEvent (withEvent e j) k = true := by
  unfold hasEvent withEvent at *
  rw [BitVec.getLsbD_or, h, Bool.true_or]

theorem leaveFireSet_elsewhere {s : State} {i : StandNo} (h : (s.stand i).ctx.state ≠ .fireSet) : s.leaveFireSet i = s :=
  if_neg h

/-- FIRE_SET returns to FIRE_WAIT with the paster timer disarmed (R75). -/
theorem stand_leaveFireSet {s : State} {i : StandNo} (h : (s.stand i).ctx.state = .fireSet) :
    ∃ horn : Horn, (s.leaveFireSet i).stand i = { s.stand i with
      ctx := { (s.stand i).ctx with state := .fireWait }
      out := { (s.stand i).out with pasterAt := none, horn := horn } } := by
  rw [leaveFireSet, if_pos h, stand_enterState, if_pos rfl, stand_modOut, if_pos rfl]
  exact ⟨_, rfl⟩

@[simp] theorem port_leaveFireSet (s : State) (i : StandNo) : (s.leaveFireSet i).port = s.port := by
  unfold leaveFireSet
  split <;> simp

@[simp] theorem log_leaveFireSet (s : State) (i : StandNo) : (s.leaveFireSet i).log = s.log := by
  unfold leaveFireSet
  split <;> simp

theorem abortBeforeFire_aborts {s : State} {i : StandNo} (h : (s.stand i).ctx.state.beforeFire = true) (c : AbortCause) :
    s.abortBeforeFire i c = s.abort i c := if_pos h

theorem abortBeforeFire_elsewhere {s : State} {i : StandNo} (h : (s.stand i).ctx.state.beforeFire = false)
    (c : AbortCause) : s.abortBeforeFire i c = s := if_neg (by simp [h])

/-! ### The stands that name a slot -/

/-- An announcement that each stand takes for itself alone reaches the stands that name the slot, each once, and touches no
other (R26, R35). -/
theorem tellStands_spec (s : State) (k : SlotNo) (o : List StandNo) (f : StandNo → State → State)
    (hf : ∀ i x, OwnChange i x (f i x)) (P : Stand → Stand → Prop) (hP : ∀ i x, P (x.stand i) ((f i x).stand i)) :
    Swept s (s.tellStands k o f) ∧ ∀ i,
      if (s.stand i).record.webSlot = k then P (s.stand i) ((s.tellStands k o f).stand i)
      else (s.tellStands k o f).stand i = s.stand i := by
  refine forStands_own o _ (fun i x => ?_) (fun _ a b => if a.record.webSlot = k then P a b else b = a) s fun i x _ => ?_
  · split
    · exact hf i x
    · exact .refl i x
  · split
    · exact hP i x
    · rfl

theorem tellStands_keeps {α : Type} (g : State → α) (k : SlotNo) (o : List StandNo) (f : StandNo → State → State)
    (h : ∀ i x, g (f i x) = g x) (s : State) : g (s.tellStands k o f) = g s :=
  forStands_keeps o _ (fun x => g x = g s) (fun i x hx => by
    split
    · exact (h i x).trans hx
    · exact hx) s rfl

theorem tracker_of_swept {s t : State} (h : Swept s t) (k : SlotNo) : t.tracker k = s.tracker k := by
  rw [State.tracker, h.trackers, State.tracker]

/-- A stand after its tracker has left TRACKING: FIRE_SET is left, with the paster timer disarmed (R75). -/
def FireSetLeft (a b : Stand) : Prop :=
  if a.ctx.state = .fireSet then b.ctx = { a.ctx with state := .fireWait } ∧ b.out.pasterAt = none else b = a

theorem leaveFireSet_left (s : State) (i : StandNo) : FireSetLeft (s.stand i) ((s.leaveFireSet i).stand i) := by
  unfold FireSetLeft
  split
  · rename_i h
    obtain ⟨horn, hs⟩ := stand_leaveFireSet h
    rw [hs]
    exact ⟨rfl, rfl⟩
  · rename_i h
    rw [leaveFireSet_elsewhere h]

/-- A stand after its tracker has gone to LOST: the event is latched, and a splice before fire has ended (R37, R83). -/
def TrackLostTold (a b : Stand) : Prop :=
  hasEvent b.events .trackLost = true ∧
    if a.ctx.state.beforeFire then
      b.ctx.state = .stopping ∧ b.ctx.cause = some .trackLost ∧ b.out.pasterAt = none ∧ b.loop.activity = .stopped
    else b = { a with events := withEvent a.events .trackLost }

theorem trackLost_told (s : State) (i : StandNo) :
    TrackLostTold (s.stand i) (((s.raise i .trackLost).abortBeforeFire i .trackLost).stand i) := by
  have hr : (s.raise i .trackLost).stand i = { s.stand i with events := withEvent (s.stand i).events .trackLost } := by
    rw [stand_raise_eq, if_pos rfl]
  unfold TrackLostTold
  cases hb : (s.stand i).ctx.state.beforeFire
  · rw [abortBeforeFire_elsewhere (by rw [hr]; exact hb), hr]
    exact ⟨hasEvent_withEvent _ _, rfl⟩
  · rw [abortBeforeFire_aborts (by rw [hr]; exact hb), (abort_spec _ i .trackLost).stand, hr]
    exact ⟨hasEvent_withEvent_of_has (hasEvent_withEvent _ _) _, rfl, rfl, rfl, rfl⟩

/-- A stand after its tracker's low-window mark has risen: the event is latched (R38). -/
def SamplesLowTold (a b : Stand) : Prop := b = { a with events := withEvent a.events .samplesLow }

theorem samplesLow_told (s : State) (i : StandNo) : SamplesLowTold (s.stand i) ((s.raise i .samplesLow).stand i) := by
  rw [SamplesLowTold, stand_raise_eq, if_pos rfl]

/-! ### The timers of a tracker, at their expiry (R36 to R38) -/

theorem due_of_armed {timer : Option Time} {t : Time} (h : timer = some t) : due timer t = true := by simp [due, h]

section

variable {s : State} {t : Time} {k : SlotNo} (o : List StandNo)

theorem coastingEnds_of_tracking (h : (s.tracker k).coastingAt = some t) (hs : (s.tracker k).state = .tracking) :
    (s.setClock t).coastingEnds k o =
      ((s.setClock t).setTracker k (s.tracker k).coasted).tellStands k o fun i x => x.leaveFireSet i := by
  unfold coastingEnds
  dsimp only
  rw [tracker_setClock, clock_setClock, if_pos (due_of_armed h), if_pos hs]
  rfl

theorem lostEnds_of_live (h : (s.tracker k).lostAt = some t)
    (hs : (s.tracker k).state = .acquiring ∨ (s.tracker k).state = .tracking ∨ (s.tracker k).state = .coasting) :
    (s.setClock t).lostEnds k o = ((s.setClock t).setTracker k (s.tracker k).dropped).tellStands k o
      fun i x => (x.raise i .trackLost).abortBeforeFire i .trackLost := by
  unfold lostEnds
  dsimp only
  rw [tracker_setClock, clock_setClock, if_pos (due_of_armed h)]
  rcases hs with hs | hs | hs <;> rw [hs] <;> rfl

/-- A window close tells the stands of a rise of the low-window mark alone. -/
theorem windowEnds_of_armed (h : (s.tracker k).windowAt = some t) :
    let low := decide ((s.tracker k).windowCount < s.line.minSamples)
    let closed := (s.setClock t).setTracker k ((s.tracker k).windowClosed t low)
    (s.setClock t).windowEnds k o =
      if low = true ∧ (s.tracker k).lowWindow = false then closed.tellStands k o fun i x => x.raise i .samplesLow
      else closed := by
  unfold windowEnds
  dsimp only
  rw [tracker_setClock, clock_setClock, if_pos (due_of_armed h)]
  simp only [Bool.and_eq_true, Bool.not_eq_true', line_setClock]
  rfl

/-- The trackers when one of them has been replaced. -/
theorem tracker_replaced (x : Tracker) (j : SlotNo) :
    ((s.setClock t).setTracker k x).tracker j = if j = k then x else s.tracker j := by
  rw [tracker_setTracker, tracker_setClock]
  simp only [eq_comm]

end

end State

end Machine

end Sys2Proof

open Sys2Proof Sys2Proof.Machine Sys2Proof.Machine.State

/-- Settles O26: each timer changes its tracker and tells the stands that name the slot, as `tellStands_spec` has it. -/
theorem trackerTimersExpire : Obligations.TrackerTimersExpire := by
  refine ⟨?_, ?_, ?_⟩
  · intro s t k o hat hst
    let x := (s.setClock t).setTracker k (s.tracker k).coasted
    obtain ⟨hsw, hstand⟩ := tellStands_spec x k o _ (fun i y => leaveFireSet_own y i) FireSetLeft
      fun i y => leaveFireSet_left y i
    refine ⟨_, congrArg Host.Outcome.next (coastingEnds_of_tracking o hat hst), hsw.clock,
      tellStands_keeps (·.port) k o _ (fun i y => port_leaveFireSet y i) x,
      tellStands_keeps (·.log) k o _ (fun i y => log_leaveFireSet y i) x, fun j => ?_, fun i => ?_⟩
    · rw [tracker_of_swept hsw, tracker_replaced]
      rfl
    · have hi : if (s.stand i).record.webSlot = k then FireSetLeft (s.stand i) _ else _ = s.stand i := hstand i
      by_cases hk : (s.stand i).record.webSlot = k
      · rw [if_pos hk] at hi
        simp only [hk, true_and]
        exact hi
      · rw [if_neg hk] at hi
        rw [if_neg fun h => hk h.1]
        exact hi
  · intro s t k o hat hst
    let x := (s.setClock t).setTracker k (s.tracker k).dropped
    obtain ⟨hsw, hstand⟩ := tellStands_spec x k o _
      (fun i y => (raise_own y i .trackLost).trans (abortBeforeFire_own _ i .trackLost)) TrackLostTold
      fun i y => trackLost_told y i
    refine ⟨_, congrArg Host.Outcome.next (lostEnds_of_live o hat hst), hsw.clock, hsw.mode, fun j => ?_, hstand⟩
    rw [tracker_of_swept hsw, tracker_replaced]
    rfl
  · intro s t k o hat low
    let x := (s.setClock t).setTracker k ((s.tracker k).windowClosed t low)
    refine ⟨_, congrArg Host.Outcome.next (windowEnds_of_armed o hat), ?_⟩
    dsimp only
    split
    · rename_i hrise
      obtain ⟨hsw, hstand⟩ := tellStands_spec x k o _ (fun i y => raise_own y i .samplesLow)
        SamplesLowTold fun i y => samplesLow_told y i
      refine ⟨hsw.clock, tellStands_keeps (·.log) k o _ (fun i y => log_raise_eq y i .samplesLow) x, fun j => ?_,
        fun i => ?_⟩
      · rw [tracker_of_swept hsw, tracker_replaced]
        rfl
      · have hi : if (s.stand i).record.webSlot = k then SamplesLowTold (s.stand i) _ else _ = s.stand i := hstand i
        by_cases hk : (s.stand i).record.webSlot = k
        · rw [if_pos hk] at hi
          rw [if_pos ⟨hk, hrise⟩]
          exact hi
        · rw [if_neg hk] at hi
          rw [if_neg fun h => hk h.1]
          exact hi
    · rename_i hquiet
      refine ⟨rfl, rfl, fun j => ?_, fun i => (if_neg fun h => hquiet h.2).symm⟩
      rw [tracker_replaced]
      rfl
end

section
/-! SUPPORT. What a line sample comes to for the part, for one stand and, when one stand alone hears of it, for the whole
state (O24). -/

namespace Sys2Proof

namespace Machine

namespace State

/-! ### The sample taken by the trackers (R28) -/

/-- The part when the payload check of the on-arrival frame has ended, before the sample is handed on (R153). -/
def arrived (s : State) (t : Time) (h : Header) (p : List Byte) : State :=
  ((s.setClock t).readPayload p (crcBytes p)).modPort fun q => { q with payloadAck := toOneStation h }

/-- The part when the trackers have processed the sample, before a stand hears of it. -/
def sampled (s : State) (p : List Byte) : State := s.mapTrackers fun k _ => (s.sampleSlot p k).1

/-- What a stand hears of the sample: what the tracker of its slot made of it. -/
def heard (s : State) (p : List Byte) (i : StandNo) : SampleEvent := (s.sampleSlot p (s.stand i).record.webSlot).2

theorem exec_lineSample {s : State} {t : Time} {h : Header} {p : List Byte} (o : List Matter)
    (hread : s.port.reading = .onArrival h) (hverb : h.verb = 0x10) (hsender : h.sender = s.line.lineMaster)
    (hmaster : s.line.lineMaster ≠ 0) (hlength : p.length = h.length.toNat) (h29 : 29 ≤ p.length) :
    exec (.lineSample t p (crcBytes p) o) s = .next ((s.arrived t h p).takeSample p o) := by
  have hfrom : (s.arrived t h p).fromLineMaster h.sender = true := by
    show (h.sender == s.line.lineMaster && !(s.line.lineMaster == 0)) = true
    rw [hsender, beq_self_eq_true, Bool.true_and, Bool.not_eq_true', beq_eq_false_iff_ne]
    exact hmaster
  show Host.Outcome.next ((s.setClock t).arrivalEnds verbLineSample p (crcBytes p) (handSample p o)) = _
  unfold arrivalEnds
  rw [port_setClock, hread]
  dsimp only
  rw [if_pos ⟨hverb, hlength⟩, if_pos rfl, handSample, if_pos]
  · rfl
  · exact ⟨hfrom, h29⟩

section

variable (s : State) (p : List Byte) (i : StandNo)

theorem sampled_rest : s.sampled p = { s with trackers := (s.sampled p).trackers } := mapTrackers_rest s _

@[simp] theorem stand_sampled : (s.sampled p).stand i = s.stand i := stand_mapTrackers s _ i

theorem tracker_sampled (k : SlotNo) : (s.sampled p).tracker k = (s.sampleSlot p k).1 := mapTrackers_tracker s _ k

theorem sampled_swept (o : List Matter) : Swept (s.sampled p) (s.takeSample p o) := by
  rw [sampled_rest]
  exact takeSample_swept s p o

end

/-! ### The two matters of one stand -/

/-- A loop's matter changes nothing of its stand but the loop. -/
theorem stand_loopHears (s : State) (i : StandNo) (e : SampleEvent) (b : Bool) :
    (s.loopHears i e b).stand i = { s.stand i with loop := ((s.loopHears i e b).stand i).loop } := by
  unfold loopHears
  split
  · split
    · rw [updateReference_ramped]
      rcases (placeReference_stand s i _).1 with h | h <;> rw [h]
    · rfl
  all_goals rfl

/-- A sample ignored or rejected, or one that becomes the anchor, says nothing to a stand (R35). -/
theorem hears_quiet {e : SampleEvent} (h : e = .silent ∨ e = .anchored) (s : State) (i : StandNo) (b : Bool) :
    s.loopHears i e b = s ∧ s.contextHears i e = s := by
  rcases h with rfl | rfl <;> exact ⟨rfl, rfl⟩

theorem loopHears_of_resting {s : State} {i : StandNo} {b : Bool} (h : b = false ∨ (s.stand i).loop.activity ≠ .running)
    (e : SampleEvent) : s.loopHears i e b = s := by
  unfold loopHears
  split
  · rw [if_neg]
    rcases h with h | h <;> simp [h]
  all_goals rfl

/-- A loop that was RUNNING and still is takes an accepted sample (R94, R95). -/
theorem loopHears_accepted (s : State) (i : StandNo) (dt : Nat) (was : Activity) :
    s.loopHears i (.accepted dt) (was == .running) =
      if was = .running ∧ (s.stand i).loop.activity = .running then s.updateReference i dt else s := by
  simp only [loopHears, Bool.and_eq_true, beq_iff_eq]

theorem contextHears_watch {s : State} {i : StandNo} (h : (s.stand i).ctx.state = .watch) (dt : Nat) :
    s.contextHears i (.accepted dt) = s.predict i := if_pos h

/-- Below 500 mm/s an accepted sample aborts a splice before fire (R83). -/
theorem contextHears_slow {s : State} {i : StandNo} (h : (s.stand i).ctx.state.beforeFire = true)
    (hv : (s.trackerOf i).v < 500) (dt : Nat) : s.contextHears i (.accepted dt) = s.abort i .speedLow := by
  have hw : (s.stand i).ctx.state ≠ .watch := by
    intro e
    rw [e] at h
    cases h
  unfold contextHears
  dsimp only
  rw [if_neg hw, if_pos hv, abortBeforeFire_aborts h]

/-- Outside WATCH an accepted sample says nothing to a context that is past fire or resting, or at 500 mm/s and above. -/
theorem contextHears_passes {s : State} {i : StandNo} (hw : (s.stand i).ctx.state ≠ .watch)
    (h : (s.stand i).ctx.state.beforeFire = false ∨ 500 ≤ (s.trackerOf i).v) (dt : Nat) :
    s.contextHears i (.accepted dt) = s := by
  unfold contextHears
  dsimp only
  rw [if_neg hw]
  split
  · exact abortBeforeFire_elsewhere (h.resolve_right (by omega)) _
  · rfl

section

variable {s : State} {p : List Byte} {i : StandNo} (o : List Matter)

/-- When the loop's matter comes before the context's, the context finds its stand as it was but for the loop. -/
theorem stand_between {x y : State} (hx : Elsewhere i (s.sampled p) x)
    (hy : Elsewhere i (hearMatter s p ⟨i, .loop⟩ x) y) :
    Swept (s.sampled p) y ∧ y.stand i = { s.stand i with loop := (y.stand i).loop } := by
  refine ⟨hx.swept.trans ((hearMatter_own s p _ x).swept.trans hy.swept), ?_⟩
  rw [hy.stand, ← stand_sampled s p i, ← hx.stand]
  exact stand_loopHears x i _ _

/-- When the loop has no matter of the sample, the context alone acts on the stand. -/
theorem takeSample_context
    (h : ∀ z : State, z.loopHears i (s.heard p i) ((s.stand i).loop.activity == .running) = z) :
    ∃ z, Elsewhere i (s.sampled p) z ∧ Elsewhere i (z.contextHears i (s.heard p i)) (s.takeSample p o) := by
  obtain ⟨a, b, x, y, hab, hx, hy, hu⟩ := takeSample_seen s p o i
  have hloop (z : State) : hearMatter s p ⟨i, .loop⟩ z = z := h z
  rcases hab with ⟨rfl, rfl⟩ | ⟨rfl, rfl⟩
  · rw [hloop] at hy
    exact ⟨y, hx.trans hy, hu⟩
  · rw [hloop] at hu
    exact ⟨x, hx, hy.trans hu⟩

/-- When the context passes over the sample, the loop alone acts on the stand. -/
theorem takeSample_loop
    (h : ∀ z : State, Swept (s.sampled p) z → z.stand i = { s.stand i with loop := (z.stand i).loop } →
      z.contextHears i (s.heard p i) = z) :
    ∃ z, Elsewhere i (s.sampled p) z ∧
      Elsewhere i (z.loopHears i (s.heard p i) ((s.stand i).loop.activity == .running)) (s.takeSample p o) := by
  obtain ⟨a, b, x, y, hab, hx, hy, hu⟩ := takeSample_seen s p o i
  have hxs : x.stand i = s.stand i := hx.stand.trans (stand_sampled s p i)
  rcases hab with ⟨rfl, rfl⟩ | ⟨rfl, rfl⟩
  · obtain ⟨hsw, hys⟩ := stand_between hx hy
    have hc : hearMatter s p ⟨i, .context⟩ y = y := h y hsw hys
    rw [hc] at hu
    exact ⟨x, hx, hy.trans hu⟩
  · have hc : hearMatter s p ⟨i, .context⟩ x = x := h x hx.swept (by rw [hxs])
    rw [hc] at hy
    exact ⟨y, hx.trans hy, hu⟩

/-- A sample ignored or rejected, or one that becomes the anchor, changes no stand of its slot (R35). -/
theorem takeSample_quiet (h : s.heard p i = .silent ∨ s.heard p i = .anchored) :
    (s.takeSample p o).stand i = s.stand i := by
  obtain ⟨z, hz, hu⟩ := takeSample_context (p := p) (i := i) o fun z => (hears_quiet h z i _).1
  rw [hu.stand, (hears_quiet h z i false).2, hz.stand, stand_sampled]

/-- A re-acquire takes the stand out of FIRE_SET, and changes no other stand of the slot (R35, R75). -/
theorem takeSample_reacquired (h : s.heard p i = .reacquired) :
    ∃ z : State, z.stand i = s.stand i ∧ (s.takeSample p o).stand i = (z.leaveFireSet i).stand i := by
  obtain ⟨z, hz, hu⟩ := takeSample_context (p := p) (i := i) o fun z => by rw [h]; rfl
  rw [h] at hu
  exact ⟨z, hz.stand.trans (stand_sampled s p i), hu.stand⟩

/-- An accepted sample below 500 mm/s aborts a splice before fire, whichever of the two matters comes first (R83). -/
theorem takeSample_slow {dt : Nat} (h : s.heard p i = .accepted dt) (hb : (s.stand i).ctx.state.beforeFire = true)
    (hv : ((s.sampled p).trackerOf i).v < 500) :
    let now := (s.takeSample p o).stand i
    now.ctx.state = .stopping ∧ now.ctx.cause = some .speedLow ∧ now.out.pasterAt = none ∧
      now.loop.activity = .stopped := by
  intro now
  obtain ⟨a, b, x, y, hab, hx, hy, hu⟩ := takeSample_seen s p o i
  have hxs : x.stand i = s.stand i := hx.stand.trans (stand_sampled s p i)
  have hk (z : State) (hz : Swept (s.sampled p) z) (hs : z.stand i = { s.stand i with loop := (z.stand i).loop }) :
      hearMatter s p ⟨i, .context⟩ z = z.abort i .speedLow := by
    have hr : (z.stand i).record = ((s.sampled p).stand i).record := by rw [hs, stand_sampled]
    show z.contextHears i (s.heard p i) = _
    rw [h, contextHears_slow (by rw [hs]; exact hb)]
    rw [trackerOf, hr, tracker_of_swept hz]
    exact hv
  rcases hab with ⟨rfl, rfl⟩ | ⟨rfl, rfl⟩
  · obtain ⟨hsw, hys⟩ := stand_between hx hy
    have hn : now = (y.abort i .speedLow).stand i := by
      rw [← hk y hsw hys]
      exact hu.stand
    rw [hn, (abort_spec y i .speedLow).stand]
    exact ⟨rfl, rfl, rfl, rfl⟩
  · rw [hk x hx.swept (by rw [hxs])] at hy
    have hys : y.stand i = _ := hy.stand.trans (abort_spec x i .speedLow).stand
    have hl : hearMatter s p ⟨i, .loop⟩ y = y := loopHears_of_resting (.inr (by rw [hys]; simp)) _
    have hn : now = y.stand i := by
      rw [hl] at hu
      exact hu.stand
    rw [hn, hys]
    exact ⟨rfl, rfl, rfl, rfl⟩

theorem rampedSpeed_seen {s z : State} (h : Swept s z) (hs : z.stand i = s.stand i) (dt : Nat) :
    z.rampedSpeed i dt = s.rampedSpeed i dt := by
  unfold rampedSpeed headGrade head grade
  rw [hs, h.grades, tracker_of_swept h]

/-- An accepted sample that the context passes over leaves a loop that was not RUNNING, and ramps the reference of one that
was (R95, R96). -/
theorem takeSample_ramps {dt : Nat} (h : s.heard p i = .accepted dt) (hw : (s.stand i).ctx.state ≠ .watch)
    (hb : (s.stand i).ctx.state.beforeFire = false ∨ 500 ≤ ((s.sampled p).trackerOf i).v) :
    let was := s.stand i
    let now := (s.takeSample p o).stand i
    let ramped := { was.loop with reference := (s.sampled p).rampedSpeed i dt }
    now = { was with loop := now.loop } ∧
      (was.loop.activity ≠ .running → now.loop = was.loop) ∧
      (was.loop.activity = .running → (now.loop = was.loop ∨ now.loop = ramped) ∧
        ((∃ a ∈ s.port.tx, a.begun = false ∧ ∃ w, a.body = .reference i w) → now.loop = ramped ∧
          ∃ a ∈ (s.takeSample p o).port.tx, a.begun = false ∧
            a.body = .reference i ((s.sampled p).rampedSpeed i dt))) := by
  intro was now ramped
  obtain ⟨z, hz, hu⟩ := takeSample_loop (s := s) (p := p) (i := i) o fun z hz hs => by
    have hr : (z.stand i).record = ((s.sampled p).stand i).record := by rw [hs, stand_sampled]
    rw [h]
    refine contextHears_passes (by rw [hs]; exact hw) ?_ dt
    rw [trackerOf, hr, tracker_of_swept hz, hs]
    exact hb
  have hzs : z.stand i = was := hz.stand.trans (stand_sampled s p i)
  have hspeed : z.rampedSpeed i dt = (s.sampled p).rampedSpeed i dt := rampedSpeed_seen hz.swept hz.stand dt
  have hframe := stand_loopHears z i (s.heard p i) (was.loop.activity == .running)
  rw [← hu.stand, hzs] at hframe
  refine ⟨hframe, fun hrest => ?_, fun hrun => ?_⟩
  · rw [loopHears_of_resting (.inr (by rw [hzs]; exact hrest))] at hu
    exact congrArg Stand.loop (hu.stand.trans hzs)
  · have hl : z.loopHears i (s.heard p i) (was.loop.activity == .running) =
        z.placeReference i ((s.sampled p).rampedSpeed i dt) := by
      rw [h, ← hspeed, ← updateReference_ramped]
      exact if_pos (by simp [hzs, hrun])
    rw [hl] at hu
    obtain ⟨heither, hplaced⟩ := placeReference_stand z i ((s.sampled p).rampedSpeed i dt)
    rw [← hu.stand, hzs] at heither hplaced
    refine ⟨heither.imp (congrArg Stand.loop) (congrArg Stand.loop), fun ⟨a, ha, hbegun, w, hw⟩ => ?_⟩
    have haz : a ∈ z.port.tx := hz.references a (by rw [sampled_rest]; exact ha) w hw
    obtain ⟨hset, c, hc, hcb, hcw⟩ := hplaced ⟨a, haz, hbegun, w, hw⟩
    exact ⟨congrArg Stand.loop hset, c, hu.references c hc _ hcw, hcb, hcw⟩

/-- An accepted sample in WATCH is the prediction's alone when the loop was not RUNNING: a loop that RUNUP entry sets running
does not use it (R64 to R67, R94, R95). -/
theorem takeSample_watch {dt : Nat} (h : s.heard p i = .accepted dt) (hw : (s.stand i).ctx.state = .watch)
    (hl : (s.stand i).loop.activity ≠ .running) :
    let now := (s.takeSample p o).stand i
    let told := ((s.sampled p).contextHears i (s.heard p i)).stand i
    now.ctx = told.ctx ∧ now.loop = told.loop ∧
      (now.ctx.state = .watch ∧ now.loop = (s.stand i).loop ∨
        now.ctx.state = .runUp ∧ now.loop = ⟨.running, .acquire, 0, 0, 0, false, false, 0⟩) := by
  intro now told
  obtain ⟨z, hz, hu⟩ := takeSample_context (p := p) (i := i) o fun z => loopHears_of_resting (.inl (by simpa using hl)) _
  have hzs : z.stand i = s.stand i := hz.stand.trans (stand_sampled s p i)
  have htold : told = ((s.sampled p).predict i).stand i := by
    show ((s.sampled p).contextHears i (s.heard p i)).stand i = _
    rw [h, contextHears_watch (by rw [stand_sampled]; exact hw)]
  rw [h, contextHears_watch (by rw [hzs]; exact hw)] at hu
  have hnow : now = (z.predict i).stand i := hu.stand
  obtain ⟨hctx, hloop⟩ := predict_seen hz.swept hz.stand
  obtain ⟨hpc, hpl⟩ := predict_moves z i
  rw [htold, ← hctx, ← hloop, ← hnow]
  refine ⟨rfl, rfl, ?_⟩
  dsimp only at hpc hpl
  rw [← hnow, hzs] at hpc hpl
  rw [hpc, hpl]
  split
  · exact .inl ⟨hw, rfl⟩
  · split
    · exact .inr ⟨rfl, rfl⟩
    · refine .inl ⟨?_, rfl⟩
      split <;> exact hw

end

/-! ### One stand alone hears of the sample -/

/-- Stands that have nothing to hear change nothing. -/
theorem fold_quiet (s : State) (p : List Byte) (l : List Matter)
    (h : ∀ m ∈ l, s.heard p m.stand = .silent ∨ s.heard p m.stand = .anchored) (z : State) :
    l.foldl (fun z m => hearMatter s p m z) z = z := by
  induction l with
  | nil => rfl
  | cons m l ih =>
    have hm : hearMatter s p m z = z := by
      obtain ⟨j, u⟩ := m
      have hj := hears_quiet (h _ List.mem_cons_self) z j
      cases u with
      | loop => exact (hj _).1
      | context => exact (hj false).2
    rw [List.foldl_cons, hm]
    exact ih fun m hm => h m (List.mem_cons_of_mem _ hm)

/-- Two matters named lead the order. -/
theorem wholeOrder_pair {a b : Matter} (h : a ≠ b) :
    wholeOrder allMatters [a, b] = a :: b :: allMatters.filter fun m => !([a, b].contains m) := by
  have he : ([a, b].filter fun m => allMatters.contains m) = [a, b] := by simp [mem_allMatters]
  unfold wholeOrder
  rw [he]
  have hd : [a, b].eraseDups = [a, b] := by simp [List.eraseDups_cons, h.symm]
  rw [hd]
  rfl

/-- When one stand alone has something to hear, its two matters, in the order named, are all that the sample comes to. -/
theorem takeSample_pair {s : State} {p : List Byte} {i : StandNo} {a b : Matter} (h : a ≠ b)
    (hab : ∀ m : Matter, m.stand = i → m = a ∨ m = b)
    (hq : ∀ j, j ≠ i → s.heard p j = .silent ∨ s.heard p j = .anchored) :
    s.takeSample p [a, b] = hearMatter s p b (hearMatter s p a (s.sampled p)) := by
  unfold takeSample
  dsimp only
  rw [wholeOrder_pair h, List.foldl_cons, List.foldl_cons]
  refine fold_quiet s p _ (fun m hm => hq _ fun hi => ?_) _
  have hne : m ≠ a ∧ m ≠ b := by simpa using (List.mem_filter.1 hm).2
  rcases hab m hi with e | e
  · exact hne.1 e
  · exact hne.2 e

end State

end Machine

end Sys2Proof

open Sys2Proof Sys2Proof.Machine Sys2Proof.Machine.State

/-- Settles O24: the trackers take the sample, and each stand is seen through its two matters alone. -/
theorem lineSampleReachesTrackers : Obligations.LineSampleReachesTrackers := by
  intro s t o h p hread hverb hsender hmaster hlength h29 took slot
  let y := s.arrived t h p
  have hsw := sampled_swept y p o
  have hstand (i : StandNo) : (y.sampled p).stand i = s.stand i := stand_sampled y p i
  have htracker (k : SlotNo) : (y.sampled p).tracker k = (took k).1 := tracker_sampled y p k
  have hheard (i : StandNo) : y.heard p i = (took (s.stand i).record.webSlot).2 := rfl
  have hv (i : StandNo) : (y.sampled p).trackerOf i = (took (s.stand i).record.webSlot).1 := by
    rw [trackerOf, hstand, htracker]
  refine ⟨y.sampled p, y.takeSample p o, exec_lineSample o hread hverb hsender hmaster hlength h29, ?_⟩
  rw [sampled_rest] at hsw
  refine ⟨hsw.clock, hsw.mode, hsw.grades, hsw.line, by rw [hsw.port]; rfl, by rw [hsw.port]; rfl, by rw [hsw.port]; rfl,
    by rw [hsw.port]; rfl, fun k => ?_, htracker, sampled_rest y p, fun i => ?_, fun i dt hi hq => ?_⟩
  · rw [State.tracker, hsw.trackers]
    exact htracker k
  · intro e v was now
    refine ⟨fun he => takeSample_quiet (s := y) o he, fun he hs => ?_, fun he hs => ?_, fun dt he hb hslow => ?_,
      fun dt he hw hb => ?_, fun dt he hw hl => takeSample_watch o he hw hl⟩
    · obtain ⟨z, hz, hu⟩ := takeSample_reacquired o (s := y) (p := p) (i := i) he
      have hzs : z.stand i = was := hz
      rw [leaveFireSet_elsewhere (by rw [hzs]; exact hs), hzs] at hu
      exact hu
    · obtain ⟨z, hz, hu⟩ := takeSample_reacquired o (s := y) (p := p) (i := i) he
      have hzs : z.stand i = was := hz
      obtain ⟨horn, hl⟩ := stand_leaveFireSet (s := z) (i := i) (by rw [hzs]; exact hs)
      rw [hl, hzs] at hu
      have hn : now = _ := hu
      rw [hn]
    · exact takeSample_slow o he hb (by rw [hv]; exact hslow)
    · exact takeSample_ramps o he hw (by rw [hv]; exact hb)
  · intro ramp
    have hloop (z : State) : hearMatter y p ⟨i, .loop⟩ z = ramp z := by
      show z.loopHears i (y.heard p i) ((s.stand i).loop.activity == .running) = _
      rw [hheard, hi, loopHears_accepted]
    have hcontext (z : State) : hearMatter y p ⟨i, .context⟩ z = z.contextHears i (.accepted dt) := by
      show z.contextHears i (y.heard p i) = _
      rw [hheard, hi]
    have hself (m : Matter) (hm : m.stand = i) : m = ⟨i, .loop⟩ ∨ m = ⟨i, .context⟩ := by
      obtain ⟨j, u⟩ := m
      obtain rfl : j = i := hm
      cases u with
      | loop => exact .inl rfl
      | context => exact .inr rfl
    constructor
    · rintro rfl
      rw [takeSample_pair (s := y) (by simp) hself hq, hloop, hcontext]
    · rintro rfl
      rw [takeSample_pair (s := y) (by simp) (fun m hm => (hself m hm).symm) hq, hcontext, hloop]
end

section
/-! SUPPORT. What a change of a pulse input, a mark and the expiry of a stopped timer do to a channel, and what the stand makes
of them (O28 to O30). -/

namespace Sys2Proof

namespace Machine

theorem capNat_eq_min (hi x : Nat) : capNat hi x = min hi x := by
  unfold capNat
  split <;> omega

namespace PulseChannel

variable {c : PulseChannel} {now : Time}

/-! ### Glitches (R43, R46) -/

theorem glitch_eq (c : PulseChannel) : c.glitch =
    if c.state = .stopped then c
    else if c.glitches < 7 then { c with glitches := c.glitches + 1 }
    else { c with glitches := c.glitches + 1, fault := true, validRun := 0 } := by
  unfold glitch
  cases hs : c.state <;> simp [Nat.succ_lt_succ_iff]

theorem fault_glitch_of_quiet (h : c.state = .stopped ∨ c.glitches < 7) : c.glitch.fault = c.fault := by
  rw [glitch_eq]
  by_cases hs : c.state = .stopped
  · rw [if_pos hs]
  · rw [if_neg hs, if_pos (h.resolve_left hs)]

theorem fault_glitch_of_eighth (hs : c.state ≠ .stopped) (h : 7 ≤ c.glitches) : c.glitch.fault = true := by
  rw [glitch_eq, if_neg hs, if_neg (Nat.not_lt.2 h)]

/-! ### Marks and periods (R44, R46) -/

theorem mark_of_stopped (h : c.state = .stopped) (now : Time) : c.mark now = ({ c with
    state := .starting, lastMark := some now, stoppedAt := some (now + 8000000), glitches := 0 }, none) := by
  unfold mark
  rw [h]
  rfl

/-- Past its first mark a channel judges the period that a mark closes (R44). -/
theorem mark_of_going {m : Time} (h : c.state ≠ .stopped) (hm : c.lastMark = some m) : c.mark now =
    if elapsed m now < Config.shortestPeriod then (c.rejectPeriod, none)
    else if elapsed m now ≤ Config.stoppedDelay then (c.validPeriod now (elapsed m now), some (elapsed m now))
    else (c, none) := by
  unfold mark
  cases hs : c.state with
  | stopped => exact absurd hs h
  | starting | turning => rw [hm]

theorem rejectPeriod_eq (c : PulseChannel) : c.rejectPeriod = { c with
    rejectRun := min 3 (c.rejectRun + 1), validRun := 0, fault := c.fault || decide (2 ≤ c.rejectRun) } := by
  have hthird : min 3 (c.rejectRun + 1) = 3 ↔ 2 ≤ c.rejectRun := by omega
  simp only [rejectPeriod, capNat_eq_min, hthird]

theorem validPeriod_eq (c : PulseChannel) (now : Time) (p : Nat) : c.validPeriod now p = { c with
    state := .turning, lastMark := some now, lastPeriod := some p, stoppedAt := some (now + 8000000), glitches := 0
    rejectRun := 0, validRun := c.validRun + 1, fault := c.fault && decide (c.validRun < 2) } := by
  simp only [validPeriod, Nat.succ_lt_succ_iff]
  rfl

theorem mark_of_short {m : Time} (h : c.state ≠ .stopped) (hm : c.lastMark = some m) (hp : (now - m).toNat < 20000) :
    c.mark now = (c.rejectPeriod, none) := by
  rw [mark_of_going h hm]
  exact if_pos hp

theorem mark_of_valid {m : Time} (h : c.state ≠ .stopped) (hm : c.lastMark = some m) (hp : 20000 ≤ (now - m).toNat)
    (hp' : (now - m).toNat ≤ 8000000) :
    c.mark now = (c.validPeriod now (now - m).toNat, some (now - m).toNat) := by
  rw [mark_of_going h hm]
  exact (if_neg (Nat.not_lt.2 hp)).trans (if_pos hp')

/-- A valid period never raises the fault mark (R46). -/
theorem validPeriod_quiet (c : PulseChannel) (now : Time) (p : Nat) :
    (c.validPeriod now p).fault = false ∨ c.fault = true := by
  rw [validPeriod_eq]
  cases c.fault
  · exact .inl rfl
  · exact .inr rfl

end PulseChannel

namespace State

theorem latched_append (e : EventSet) (ks js : List EventKind) : latched (latched e ks) js = latched e (ks ++ js) :=
  List.foldl_append.symm

/-- What a change of one stand's own matters relates, it relates both ways. -/
theorem OwnChange.symm {i : StandNo} {s t : State} (h : OwnChange i s t) : OwnChange i t s where
  stands j hj := (h.stands j hj).symm
  trackers := h.trackers.symm
  grades := h.grades.symm
  line := h.line.symm
  mode := h.mode.symm
  scanNext := h.scanNext.symm
  pending := h.pending.symm
  port := by rw [h.port]
  clock := h.clock.symm

/-- An abort that follows the raising of events is an abort with those events raised at it too. -/
theorem AbortedBy.afterEvents {i : StandNo} {c : AbortCause} {ks js : List EventKind} {s t u : State}
    (h : AbortedBy i c js t u) (own : OwnChange i s t)
    (stand : t.stand i = { s.stand i with events := latched (s.stand i).events ks })
    (log : t.log = s.log) (nextSeq : t.nextSeq = s.nextSeq) : AbortedBy i c (ks ++ js) s u where
  others := (own.trans ⟨h.others, h.clock⟩).toKeepsOthers
  clock := h.clock.trans own.clock
  stand := by
    rw [h.stand, stand, own.clock, List.append_assoc]
    simp only [latched_append]
  horn := h.horn
  log := by
    rw [h.log]
    simp only [abortRecord, reelIds, stand, log, nextSeq, own.clock]
  nextSeq := by rw [h.nextSeq, nextSeq]
  release := h.release
  withdrawn := h.withdrawn

section

variable {s : State} {i : StandNo} {ch : Channel}

@[simp] theorem channel_withEvents (x : Stand) (e : EventSet) (ch : Channel) :
    Stand.channel { x with events := e } ch = x.channel ch := by cases ch <;> rfl

theorem setChannel_withEvents (x : Stand) (e : EventSet) (ch : Channel) (c : PulseChannel) :
    Stand.setChannel { x with events := e } ch c = { x.setChannel ch c with events := e } := by cases ch <;> rfl

@[simp] theorem stand_setChannel (s : State) (i : StandNo) (ch : Channel) (c : PulseChannel) :
    (s.setChannel i ch c).stand i = (s.stand i).setChannel ch c := by simp [State.setChannel]

/-! ### A change of a pulse input (R43) -/

theorem inputChanges_begins {high : Bool} (hi : high ≠ ((s.stand i).channel ch).input)
    (ha : ((s.stand i).channel ch).input = ((s.stand i).channel ch).accepted)
    (hc : ((s.stand i).channel ch).change = none) :
    s.inputChanges i ch high = s.setChannel i ch { (s.stand i).channel ch with
      input := high, change := some ⟨s.clock, (s.stand i).record.filterTime⟩ } := by
  unfold inputChanges
  dsimp only
  rw [if_neg hi, hc, if_neg (ha ▸ hi)]

/-- The events that the end of a pending change as a glitch raises before its channel counts it (R48). -/
def noiseEvents (x : Stand) : List EventKind := if x.record.enabled then [.noise] else []

/-- The part between the end of a pending change and the channel's counting of the glitch. -/
def changeEnded (s : State) (i : StandNo) (ch : Channel) (high : Bool) : State :=
  (s.setChannel i ch { (s.stand i).channel ch with input := high, change := none }).raiseEnabled i .noise

theorem stand_changeEnded (s : State) (i : StandNo) (ch : Channel) (high : Bool) : (s.changeEnded i ch high).stand i =
    { (s.stand i).setChannel ch { (s.stand i).channel ch with input := high, change := none } with
      events := latched (s.stand i).events (noiseEvents (s.stand i)) } := by
  rw [changeEnded, stand_raiseEnabled, stand_setChannel, record_setChannel, events_setChannel]
  rfl

theorem changeEnded_own (s : State) (i : StandNo) (ch : Channel) (high : Bool) : OwnChange i s (s.changeEnded i ch high) :=
  (setChannel_own s i ch _).trans (raiseEnabled_own _ i _)

theorem log_changeEnded (s : State) (i : StandNo) (ch : Channel) (high : Bool) :
    (s.changeEnded i ch high).log = s.log ∧ (s.changeEnded i ch high).nextSeq = s.nextSeq :=
  ⟨log_raiseEnabled _ i _, nextSeq_raiseEnabled _ i _⟩

theorem inputChanges_ends {high : Bool} (hi : high ≠ ((s.stand i).channel ch).input)
    (hc : ((s.stand i).channel ch).change ≠ none) :
    s.inputChanges i ch high = (s.changeEnded i ch high).updateChannel i ch
      (PulseChannel.glitch { (s.stand i).channel ch with input := high, change := none }) := by
  obtain ⟨g, hg⟩ := Option.ne_none_iff_exists'.1 hc
  have hch : ((s.changeEnded i ch high).stand i).channel ch =
      { (s.stand i).channel ch with input := high, change := none } := by
    rw [stand_changeEnded, channel_withEvents, channel_setChannel]
  rw [← hch]
  unfold inputChanges
  dsimp only
  rw [if_neg hi, hg]
  rfl

/-- The stand after the glitch has been counted, the fault mark apart. -/
theorem stand_changeEnded_setChannel (high : Bool) (d : PulseChannel) :
    ((s.changeEnded i ch high).setChannel i ch d).stand i =
      { (s.stand i).setChannel ch d with events := latched (s.stand i).events (noiseEvents (s.stand i)) } := by
  rw [stand_setChannel, stand_changeEnded, setChannel_withEvents, setChannel_setChannel]

/-! ### The acceptance of a change (R43, R44) -/

section

variable {g : PendingChange} (hc : ((s.stand i).channel ch).change = some g) (hg : after g.since g.filter = s.clock)
  (b : Bool)

include hc hg

theorem changeHolds_falls (ha : ((s.stand i).channel ch).accepted = true) : s.changeHolds i ch b =
    s.setChannel i ch { (s.stand i).channel ch with accepted := false, change := none } := by
  unfold changeHolds
  dsimp only
  rw [hc]
  dsimp only
  rw [if_pos hg, ha]
  rfl

/-- A rising change is a mark: the channel takes it, and a period that it closes is handed on (R43, R44, R47). -/
theorem changeHolds_rises (ha : ((s.stand i).channel ch).accepted = false) {m : PulseChannel × Option Nat}
    (hm : PulseChannel.mark { (s.stand i).channel ch with accepted := true, change := none } s.clock = m) :
    s.changeHolds i ch b = match m.2 with
      | some p => (s.updateChannel i ch m.1).handOn i ch p b
      | none => s.updateChannel i ch m.1 := by
  subst hm
  unfold changeHolds
  dsimp only
  rw [hc]
  dsimp only
  rw [if_pos hg, ha]
  rfl

/-- A mark that raises no fault mark and closes no period changes the channel alone. -/
theorem changeHolds_marks (ha : ((s.stand i).channel ch).accepted = false) {d : PulseChannel}
    (hm : PulseChannel.mark { (s.stand i).channel ch with accepted := true, change := none } s.clock = (d, none))
    (hq : d.fault = false ∨ ((s.stand i).channel ch).fault = true) :
    s.changeHolds i ch b = s.setChannel i ch d := by
  rw [changeHolds_rises hc hg b ha hm]
  exact updateChannel_quiet s i ch d hq

/-- A mark on a stand that is not enabled, with no splice before fire, changes the channel alone (R48). -/
theorem changeHolds_disabled (ha : ((s.stand i).channel ch).accepted = false)
    (he : (s.stand i).record.enabled = false) (hb : (s.stand i).ctx.state.beforeFire = false) :
    s.changeHolds i ch b = s.setChannel i ch
      (PulseChannel.mark { (s.stand i).channel ch with accepted := true, change := none } s.clock).1 := by
  rw [changeHolds_rises hc hg b ha rfl]
  generalize PulseChannel.mark { (s.stand i).channel ch with accepted := true, change := none } s.clock = m
  have hu : s.updateChannel i ch m.1 = s.setChannel i ch m.1 := by
    unfold updateChannel raiseEnabled
    simp only [stand_setChannel, record_setChannel, he, Bool.false_eq_true, if_false]
    rw [abortBeforeFire_elsewhere (by rw [stand_setChannel, ctx_setChannel]; exact hb), ite_self]
  rw [hu]
  cases m.2 with
  | none => rfl
  | some p => exact if_neg (by simp [he])

end

/-! ### The stopped timer (R45) -/

theorem channelStops_run (h : (s.stand i).runCh.stoppedAt = some s.clock) :
    s.channelStops i .run = s.setChannel i .run (s.stand i).runCh.stop := by
  unfold channelStops
  exact if_pos (due_of_armed h)

/-- The stand with its FRESH channel in STOPPED and V_f at 0 (R45, R52). -/
def withFreshStopped (x : Stand) : Stand := { x with freshCh := x.freshCh.stop, vFresh := 0 }

theorem channelStops_fresh (h : (s.stand i).freshCh.stoppedAt = some s.clock) :
    s.channelStops i .fresh = (s.modStand i withFreshStopped).freshStopped i := by
  have hm : (s.setChannel i .fresh (s.stand i).freshCh.stop).modStand i (fun x => { x with vFresh := 0 }) =
      s.modStand i withFreshStopped := by
    rw [State.setChannel, modStand_modStand]
    rfl
  rw [← hm]
  unfold channelStops
  exact if_pos (due_of_armed h)

theorem freshStopped_aborts (h : (s.stand i).ctx.state = .fireWait ∨ (s.stand i).ctx.state = .fireSet) :
    s.freshStopped i = s.abort i .noTab := by
  unfold freshStopped
  rcases h with h | h <;> rw [h]

theorem freshStopped_settles (h : (s.stand i).ctx.state = .stopping) :
    s.freshStopped i = (s.modCtx i fun x => { x with stoppingAt := none }).enterRest i := by
  unfold freshStopped
  rw [h]

theorem freshStopped_elsewhere (hw : (s.stand i).ctx.state ≠ .fireWait) (hs : (s.stand i).ctx.state ≠ .fireSet)
    (hp : (s.stand i).ctx.state ≠ .stopping) : s.freshStopped i = s := by
  unfold freshStopped
  split
  · exact absurd ‹_› hw
  · exact absurd ‹_› hs
  · exact absurd ‹_› hp
  · rfl

end

end State

end Machine

end Sys2Proof

open Sys2Proof Sys2Proof.Machine Sys2Proof.Machine.State

/-- Settles O28: the glitch that ends a pending change is counted on the state with NOISE raised, and the fault mark that it may
set there rises as `updateChannel_rise` has it. -/
theorem pulseInputChangeFilters : Obligations.PulseInputChangeFilters := by
  intro s t i ch high c x y
  let z : State := x.changeEnded i ch high
  let d : PulseChannel := PulseChannel.glitch { c with input := high, change := none }
  have hexec (hi : high ≠ c.input) (hc : c.change ≠ none) :
      exec (.pulseInputChange t i ch high) s = .next (z.updateChannel i ch d) :=
    congrArg Host.Outcome.next (inputChanges_ends (s := x) hi hc)
  have hown : KeepsOthers i s (z.updateChannel i ch d) :=
    OwnChange.afterClock (t := t) ((changeEnded_own x i ch high).trans (updateChannel_own _ i ch d))
  have hfault : (z.stand i).channel ch = { c with input := high, change := none } := by
    rw [stand_changeEnded, channel_withEvents, channel_setChannel]
    rfl
  have hstand : (z.setChannel i ch d).stand i = { y with events := latched (s.stand i).events (noiseEvents (s.stand i)) } :=
    stand_changeEnded_setChannel high d
  refine ⟨fun ha hi hc => ?_, fun hi hc hq => ?_, fun hi hc hs h7 hf => ?_, PulseChannel.glitch_eq⟩
  · exact congrArg Host.Outcome.next (inputChanges_begins (s := x) hi ha hc)
  · refine ⟨_, hexec hi hc, hown, ?_⟩
    have hquiet : d.fault = false ∨ ((z.stand i).channel ch).fault = true := by
      rw [hfault]
      cases hcf : c.fault with
      | true => exact .inr rfl
      | false =>
        have hg : c.state = .stopped ∨ c.glitches < 7 := by simpa [hcf] using hq
        exact .inl ((PulseChannel.fault_glitch_of_quiet (c := { c with input := high, change := none }) hg).trans hcf)
    rw [updateChannel_quiet _ _ _ _ hquiet, hstand]
    refine ⟨(log_changeEnded x i ch high).1, ?_⟩
    unfold noiseEvents
    split <;> rfl
  · intro ks
    have hks : ks = noiseEvents (s.stand i) ++ if (s.stand i).record.enabled then [.sensorFault] else [] := by
      unfold ks noiseEvents
      split <;> rfl
    have hrec : (z.stand i).record = (s.stand i).record ∧ (z.stand i).ctx = (s.stand i).ctx := by
      rw [stand_changeEnded]
      exact ⟨record_setChannel _ _ _, ctx_setChannel _ _ _⟩
    have hrise : d.fault = true := PulseChannel.fault_glitch_of_eighth hs h7
    obtain ⟨habort, helse⟩ := updateChannel_rise z i ch d hrise (by rw [hfault]; exact hf)
    rw [hrec.1, hrec.2] at habort helse
    refine ⟨fun hb => ⟨_, hexec hi hc, ?_⟩, fun hb => ⟨_, hexec hi hc, hown, ?_⟩⟩
    · have hown' : OwnChange i (x.setStand i y) (z.setChannel i ch d) :=
        (setChannel_own x i ch d).symm.trans ((changeEnded_own x i ch high).trans (setChannel_own _ i ch d))
      rw [hks]
      refine (habort hb).afterEvents hown' ?_ (log_changeEnded x i ch high).1 (log_changeEnded x i ch high).2
      rw [hstand, stand_setStand, if_pos rfl, events_setChannel]
    · obtain ⟨hlog, hst⟩ := helse hb
      refine ⟨hlog.trans (log_changeEnded x i ch high).1, ?_⟩
      rw [hst, ← stand_setChannel, hstand, hks, ← latched_append, stand_changeEnded]
      rfl

/-- Settles O29: the channel's own judgement of a mark, and what the stand makes of the channel that it leaves. -/
theorem marksMeasurePeriods : Obligations.MarksMeasurePeriods := by
  refine ⟨fun c now h => PulseChannel.mark_of_stopped h now, fun c now m h hm => ⟨fun hp => ?_, fun hp hp' => ?_⟩, ?_⟩
  · rw [PulseChannel.mark_of_short h hm hp, PulseChannel.rejectPeriod_eq]
  · rw [PulseChannel.mark_of_valid h hm hp hp', PulseChannel.validPeriod_eq]
  · intro s t i ch first g c x hc hg
    let r : PulseChannel := { c with accepted := true, change := none }
    refine ⟨fun ha => ?_, fun ha hs => ?_, fun m ha hs hm hp => ?_, fun ha he hoff _ => ?_⟩
    · exact congrArg Host.Outcome.next (changeHolds_falls (s := x) hc hg first ha)
    · have hq : c.fault = false ∨ c.fault = true := by cases c.fault <;> simp
      exact congrArg Host.Outcome.next
        (changeHolds_marks (s := x) hc hg first ha (PulseChannel.mark_of_stopped (c := r) hs t) hq)
    · intro y ks
      let d : PulseChannel := r.rejectPeriod
      have hmark : r.mark t = (d, none) := PulseChannel.mark_of_short (c := r) hs hm hp
      have hd : d = { c with
          accepted := true, change := none
          rejectRun := min 3 (c.rejectRun + 1), validRun := 0, fault := c.fault || decide (2 ≤ c.rejectRun) } :=
        PulseChannel.rejectPeriod_eq _
      have hy : x.setChannel i ch d = x.setStand i y := by rw [hd]; rfl
      refine ⟨fun hq => ?_, fun hf h2 => ?_⟩
      · have hquiet : d.fault = false ∨ c.fault = true := by
          rw [hd]
          rcases hq with hq | hq
          · exact .inr hq
          · cases hcf : c.fault with
            | true => exact .inr rfl
            | false => exact .inl (by simpa using hq)
        rw [← hy]
        exact congrArg Host.Outcome.next (changeHolds_marks (s := x) hc hg first ha hmark hquiet)
      · have hexec : exec (.changeAccepted t i ch first) s = .next (x.updateChannel i ch d) :=
          congrArg Host.Outcome.next (changeHolds_rises (s := x) hc hg first ha hmark)
        have hrise : d.fault = true := by rw [hd]; simp [h2]
        obtain ⟨habort, helse⟩ := updateChannel_rise x i ch d hrise hf
        refine ⟨fun hb => ⟨_, hexec, ?_⟩, fun hb => ⟨_, hexec, (updateChannel_own x i ch d).afterClock, ?_⟩⟩
        · rw [← hy]
          exact habort hb
        · obtain ⟨hlog, hst⟩ := helse hb
          refine ⟨hlog, ?_⟩
          rw [hst, hd]
          rfl
    · have hb : (s.stand i).ctx.state.beforeFire = false := by rw [hoff]; rfl
      exact congrArg Host.Outcome.next (changeHolds_disabled (s := x) hc hg first ha he hb)

/-- Settles O30: the channel is stopped, and the context hears of a FRESH channel's stop. -/
theorem stoppedTimerExpires : Obligations.StoppedTimerExpires := by
  intro s t i x stopped y
  refine ⟨fun hrun => congrArg Host.Outcome.next (channelStops_run (s := x) hrun), fun hfresh => ?_⟩
  let z : State := x.modStand i withFreshStopped
  have hexec : exec (.stoppedTimerExpiry t i .fresh) s = .next (z.freshStopped i) :=
    congrArg Host.Outcome.next (channelStops_fresh (s := x) hfresh)
  have hz : z.stand i = y := by rw [stand_modStand, if_pos rfl]; rfl
  have hctx : (z.stand i).ctx = (s.stand i).ctx := by rw [hz]
  refine ⟨fun h => ⟨_, hexec, ?_⟩, fun h => ⟨_, hexec, ?_⟩, fun hw hs hp => ?_⟩
  · rw [freshStopped_aborts (by rw [hctx]; exact h)]
    exact abort_spec _ i .noTab
  · rw [freshStopped_settles (by rw [hctx]; exact h)]
    obtain ⟨horn, hr⟩ := stand_enterRest (z.modCtx i fun x => { x with stoppingAt := none }) i i
    rw [if_pos rfl, stand_modCtx, if_pos rfl, hz] at hr
    rw [hr]
    exact ⟨rfl, rfl, rfl, rfl, rfl, rfl⟩
  · rw [hexec, freshStopped_elsewhere (by rw [hctx]; exact hw) (by rw [hctx]; exact hs) (by rw [hctx]; exact hp)]
    rfl
end

section
/-! SUPPORT. What a conversion of the analog scan does to the channel whose turn it is, and what an excursion comes to for the
context (O31). -/

namespace Sys2Proof

namespace Machine

namespace State

theorem codeValid_eq (code : BitVec 12) : codeValid code = decide (16 ≤ code.toNat ∧ code.toNat ≤ 4079) :=
  (Bool.decide_and _ _).symm

theorem insideBand_iff (r : StandRecord) (code : BitVec 12) : insideBand r code = true ↔
    16 ≤ code.toNat ∧ code.toNat ≤ 4079 ∧ r.dancerLow ≤ code.toNat ∧ code.toNat ≤ r.dancerHigh := by
  simp [insideBand, codeValid, within, and_assoc]

theorem sensorDiameter_eq (r : StandRecord) (code : BitVec 12) : (sensorDiameter r code : Int) =
    max 0 (min 14000 ((r.sensorZero : Int) + ((code.toNat : Int) * r.sensorSlope).tdiv 1000)) := by
  unfold sensorDiameter clampInt
  generalize (r.sensorZero : Int) + ((code.toNat : Int) * r.sensorSlope).tdiv 1000 = v
  split
  · omega
  · split <;> omega

section

variable {s : State} {i : StandNo} (code : BitVec 12)

/-! ### The round (R54, R55) -/

theorem convert_of_sensorTurn (h : s.scanNext.val = 6 + i.val) :
    s.convert code = ({ s with scanNext := s.scanNext + 1 } : State).convertSensor i code := by
  have hi : (⟨s.scanNext.val - 6, by omega⟩ : StandNo) = i := Fin.ext (by simp [h])
  unfold convert
  dsimp only
  rw [dif_neg (by omega), hi]

theorem convert_of_dancerTurn (h : s.scanNext.val = i.val) :
    s.convert code = ({ s with scanNext := s.scanNext + 1 } : State).convertDancer i code := by
  have hi : (⟨s.scanNext.val, by omega⟩ : StandNo) = i := Fin.ext h
  unfold convert
  dsimp only
  rw [dif_pos (by omega), hi]

/-! ### The excursion run (R57, R58) -/

/-- The stand with this code on its dancer channel and this excursion run. -/
def withDancer (code : BitVec 12) (n : Nat) (x : Stand) : Stand := { x with dancer := ⟨code, codeValid code, n⟩ }

theorem convertDancer_inside (h : insideBand (s.stand i).record code = true) :
    s.convertDancer i code = s.modStand i (withDancer code 0) := by
  unfold convertDancer
  dsimp only
  rw [if_pos h, if_neg (by simp)]
  rfl

theorem convertDancer_outside (h : insideBand (s.stand i).record code = false) : s.convertDancer i code =
    if (s.stand i).dancer.excursionRun = 2 then (s.modStand i (withDancer code 3)).announceExcursion i
    else s.modStand i (withDancer code (min 3 ((s.stand i).dancer.excursionRun + 1))) := by
  unfold convertDancer
  dsimp only
  rw [h, if_neg Bool.false_ne_true, capNat_eq_min]
  by_cases h2 : (s.stand i).dancer.excursionRun = 2
  · rw [if_pos h2, h2]
    rfl
  · rw [if_neg h2, if_neg (by omega)]
    rfl

/-! ### An excursion announced (R71, R78) -/

theorem announceExcursion_aborts (h : (s.stand i).ctx.state = .matched ∨ (s.stand i).ctx.state = .fireWait ∨
    (s.stand i).ctx.state = .fireSet) : s.announceExcursion i = s.abort i .tension := by
  unfold announceExcursion
  rcases h with h | h | h <;> rw [h]

theorem announceExcursion_marks (h : (s.stand i).ctx.state.pastFire = true) :
    s.announceExcursion i = s.modCtx i fun x => { x with excursion := true } := by
  unfold announceExcursion
  cases hc : (s.stand i).ctx.state with
  | pasting | cut => rfl
  | _ => simp [hc, CtxState.pastFire] at h

theorem announceExcursion_passes (h : (s.stand i).ctx.state.resting = true ∨ (s.stand i).ctx.state = .runUp ∨
    (s.stand i).ctx.state = .stopping) : s.announceExcursion i = s := by
  unfold announceExcursion
  cases hc : (s.stand i).ctx.state with
  | matched | fireWait | fireSet | pasting | cut => simp [hc, CtxState.resting] at h
  | _ => rfl

end

end State

end Machine

end Sys2Proof

open Sys2Proof Sys2Proof.Machine Sys2Proof.Machine.State

/-- Settles O31: the turn names the channel, and the third code outside the band in a row is announced to the context. -/
theorem conversionCompletes : Obligations.ConversionCompletes := by
  intro s t code i x r valid inside old dancer
  have hdancer (n : Nat) : dancer n = withDancer code n (s.stand i) := by rw [withDancer, codeValid_eq]
  refine ⟨fun hturn => ⟨sensorDiameter r code, sensorDiameter_eq r code, ?_⟩, fun hturn => ?_⟩
  · rw [show valid = codeValid code from (codeValid_eq code).symm]
    exact congrArg Host.Outcome.next (convert_of_sensorTurn (s := s.setClock t) code hturn)
  have hexec : exec (.conversionCompletion t code) s = .next (x.convertDancer i code) :=
    congrArg Host.Outcome.next (convert_of_dancerTurn (s := s.setClock t) code hturn)
  have hband : insideBand (x.stand i).record code = true ↔ inside := insideBand_iff r code
  refine ⟨fun hin => ?_, fun hout hold => ?_, fun hout hold => ?_⟩
  · rw [hexec, convertDancer_inside code (hband.2 hin), hdancer]
    rfl
  · have hrun : (x.stand i).dancer.excursionRun ≠ 2 := hold
    rw [hexec, convertDancer_outside code (by simpa using mt hband.1 hout), if_neg hrun, hdancer]
    rfl
  · let z : State := x.modStand i (withDancer code 3)
    have hthird : exec (.conversionCompletion t code) s = .next (z.announceExcursion i) := by
      have hrun : (x.stand i).dancer.excursionRun = 2 := hold
      rw [hexec, convertDancer_outside code (by simpa using mt hband.1 hout), if_pos hrun]
    have hz : x.setStand i (dancer 3) = z := by rw [hdancer]; rfl
    have hctx : (z.stand i).ctx = (s.stand i).ctx := by rw [stand_modStand, if_pos rfl]; rfl
    rw [hthird, hz]
    refine ⟨fun h => ⟨_, rfl, ?_⟩, fun h => ?_, fun h => ?_⟩
    · rw [announceExcursion_aborts (by rw [hctx]; exact h)]
      exact abort_spec z i .tension
    · rw [announceExcursion_marks (by rw [hctx]; exact h), modCtx_eq, modStand_modStand, hdancer]
      rfl
    · rw [announceExcursion_passes (by rw [hctx]; exact h)]
end

section
/-! SUPPORT. What a valid period of an enabled stand comes to: D_run and the checks that follow it on the RUN channel, V_f on the
FRESH channel (O32, O33). -/

namespace Sys2Proof

namespace Machine

namespace State

/-! ### A valid period handed on (R44, R47) -/

/-- The channel after a mark that closes a valid period of `p` µs, the change that made the mark accepted (R43, R44). -/
def periodTaken (c : PulseChannel) (now : Time) (p : Nat) : PulseChannel :=
  PulseChannel.validPeriod { c with accepted := true, change := none } now p

theorem periodTaken_eq (c : PulseChannel) (now : Time) (p : Nat) : periodTaken c now p = { c with
    accepted := true, change := none
    state := .turning, lastMark := some now, lastPeriod := some p, stoppedAt := some (now + 8000000), glitches := 0
    rejectRun := 0, validRun := c.validRun + 1, fault := c.fault && decide (c.validRun < 2) } :=
  PulseChannel.validPeriod_eq _ now p

/-- CHANGE_ACCEPTED at a valid period: the channel takes it with no rise of its fault mark, and hands it on. -/
theorem exec_changeAccepted_of_valid {s : State} {t m : Time} {i : StandNo} {ch : Channel} {g : PendingChange} (first : Bool)
    (ha : ((s.stand i).channel ch).accepted = false) (hc : ((s.stand i).channel ch).change = some g)
    (hg : g.since + BitVec.ofNat 32 g.filter = t) (hs : ((s.stand i).channel ch).state ≠ .stopped)
    (hm : ((s.stand i).channel ch).lastMark = some m) (hp : 20000 ≤ (t - m).toNat) (hp' : (t - m).toNat ≤ 8000000) :
    exec (.changeAccepted t i ch first) s =
      .next (((s.setClock t).setChannel i ch (periodTaken ((s.stand i).channel ch) t (t - m).toNat)).handOn i ch
        (t - m).toNat first) := by
  let c : PulseChannel := { (s.stand i).channel ch with accepted := true, change := none }
  have hmark := PulseChannel.mark_of_valid (c := c) hs hm hp hp'
  have hquiet := updateChannel_quiet (s.setClock t) i ch (periodTaken ((s.stand i).channel ch) t (t - m).toNat)
    (PulseChannel.validPeriod_quiet _ t _)
  rw [← hquiet]
  exact congrArg Host.Outcome.next (changeHolds_rises (s := s.setClock t) hc hg first ha hmark)

section

variable {s : State} {i : StandNo} {p : Nat}

/-! ### D_run (R50) -/

/-- The conditions of R50 under which a valid RUN period gives a new D_run. -/
def PeriodMeasures (s : State) (i : StandNo) (p : Nat) : Prop :=
  ((s.trackerOf i).state = .tracking ∨ (s.trackerOf i).state = .coasting) ∧ 300 ≤ (s.trackerOf i).v ∧
    (s.stand i).runCh.fault = false ∧
    ¬ ((s.stand i).measured = true ∧ (s.stand i).dRun + 200 < periodDiameter (s.trackerOf i).v p)

/-- The stand with this D_run, measured or held. -/
def withDiameter (d : Nat) (m : Bool) (x : Stand) : Stand := { x with dRun := d, measured := m }

theorem measureRunning_of_measures (h : s.PeriodMeasures i p) :
    s.measureRunning i p = s.modStand i (withDiameter (periodDiameter (s.trackerOf i).v p) true) := by
  obtain ⟨hstate, hv, hfault, hrise⟩ := h
  unfold measureRunning
  dsimp only
  rw [if_pos ⟨hstate, hv, by rw [hfault]; rfl⟩, if_neg hrise]
  rfl

/-- A period that gives no new D_run leaves the old one held (R50). -/
theorem measureRunning_of_not (h : ¬ s.PeriodMeasures i p) :
    s.measureRunning i p = s.modStand i (withDiameter (s.stand i).dRun false) := by
  have hheld : (s.modStand i fun x => { x with measured := false }) = s.modStand i (withDiameter (s.stand i).dRun false) :=
    rfl
  unfold measureRunning
  dsimp only
  split
  · rename_i hk
    obtain ⟨hstate, hv, hfault⟩ := hk
    rw [if_pos (Classical.not_not.1 fun hrise => h ⟨hstate, hv, by simpa using hfault, hrise⟩)]
    exact hheld
  · exact hheld

/-- The channel that has taken a valid period has its fault mark clear from the third valid period in a row (R46). -/
theorem fault_periodTaken_iff (c : PulseChannel) (now : Time) (p : Nat) :
    (periodTaken c now p).fault = false ↔ c.fault = false ∨ 2 ≤ c.validRun := by
  rw [periodTaken_eq]
  cases c.fault <;> simp [Nat.succ_le_iff]

/-- The part with a valid RUN period taken at `t` and measured, before the checks that follow. -/
def runMeasured (s : State) (t : Time) (i : StandNo) (p : Nat) : State :=
  ((s.setClock t).setChannel i .run (periodTaken (s.stand i).runCh t p)).measureRunning i p

/-- Measuring changes D_run and its mark alone, as R50 gives them. -/
theorem runMeasured_spec (s : State) (t : Time) (i : StandNo) (p : Nat) :
    let k := s.tracker (s.stand i).record.webSlot
    let d := min 14000 (k.v * p * 113 / 35500000)
    let good : Prop := (k.state = .tracking ∨ k.state = .coasting) ∧ 300 ≤ k.v ∧
      ((s.stand i).runCh.fault = false ∨ 2 ≤ (s.stand i).runCh.validRun) ∧
      ¬ ((s.stand i).measured = true ∧ (s.stand i).dRun + 200 < d)
    ∃ (dRun : Nat) (measured : Bool), s.runMeasured t i p = (s.setClock t).setStand i { s.stand i with
        runCh := periodTaken (s.stand i).runCh t p, dRun := dRun, measured := measured } ∧
      (good → dRun = d ∧ measured = true) ∧ (¬ good → dRun = (s.stand i).dRun ∧ measured = false) := by
  intro k d good
  let x : State := (s.setClock t).setChannel i .run (periodTaken (s.stand i).runCh t p)
  have hx : x.stand i = { s.stand i with runCh := periodTaken (s.stand i).runCh t p } :=
    stand_setChannel (s.setClock t) i .run _
  have hk : x.trackerOf i = k := by rw [trackerOf, hx]; rfl
  have hd : periodDiameter (x.trackerOf i).v p = d := by rw [hk]; exact capNat_eq_min _ _
  have hgood : x.PeriodMeasures i p ↔ good := by rw [PeriodMeasures, hd, hk, hx, fault_periodTaken_iff]
  have hset (n : Nat) (m : Bool) : x.modStand i (withDiameter n m) = (s.setClock t).setStand i { s.stand i with
      runCh := periodTaken (s.stand i).runCh t p, dRun := n, measured := m } := modStand_modStand (s.setClock t) i _ _
  by_cases h : good
  · refine ⟨d, true, ?_, fun _ => ⟨rfl, rfl⟩, fun hn => absurd h hn⟩
    rw [runMeasured, measureRunning_of_measures (hgood.2 h), hd, hset]
  · refine ⟨(s.stand i).dRun, false, ?_, fun hy => absurd hy h, fun _ => ⟨rfl, rfl⟩⟩
    rw [runMeasured, measureRunning_of_not (mt hgood.1 h), hset, hx]

/-! ### The checks that follow (R51, R69, R72) -/

/-- What a RUN period measures: the checks that follow it leave this alone. -/
def measurement (x : Stand) : PulseChannel × Nat × Bool := (x.runCh, x.dRun, x.measured)

/-- The runout check finds a runout (R51). -/
def RunoutDue (s : State) (i : StandNo) : Prop :=
  (s.stand i).running ≠ none ∧ (s.stand i).runoutFired = false ∧
    (s.stand i).dRun ≤ (s.runningGrade i).core + (s.runningGrade i).runoutMargin

theorem runoutCheck_of_not_due (h : ¬ s.RunoutDue i) : s.runoutCheck i = s := (runoutCheck_spec s i).1 h

theorem runoutCheck_fires (h : s.RunoutDue i) :
    measurement ((s.runoutCheck i).stand i) = measurement (s.stand i) ∧ ((s.runoutCheck i).stand i).runoutFired = true ∧
      hasEvent ((s.runoutCheck i).stand i).events .runout = true := by
  obtain ⟨haborts, helse⟩ := (runoutCheck_spec s i).2 h
  cases hb : (s.stand i).ctx.state.beforeFire with
  | true =>
    rw [(haborts hb).stand, stand_setStand, if_pos rfl]
    exact ⟨rfl, rfl, hasEvent_withEvent_of_has (hasEvent_withEvent _ _) _⟩
  | false =>
    rw [(helse hb).1]
    exact ⟨rfl, rfl, hasEvent_withEvent _ _⟩

/-- A runout before fire aborts the splice (R83). -/
theorem runoutCheck_aborts (h : s.RunoutDue i) (hb : (s.stand i).ctx.state.beforeFire = true) :
    let now := (s.runoutCheck i).stand i
    now.ctx.state = .stopping ∧ now.ctx.cause = some .runout ∧ now.out.pasterAt = none ∧ now.loop.activity = .stopped ∧
      (s.runoutCheck i).nextSeq = s.nextSeq + 1 := by
  intro now
  have habort := ((runoutCheck_spec s i).2 h).1 hb
  have hnow : now = _ := habort.stand
  rw [hnow]
  exact ⟨rfl, rfl, rfl, rfl, habort.nextSeq⟩

/-- A runout of a stand with no splice before fire leaves the context as it is. -/
theorem ctx_runoutCheck (h : s.RunoutDue i) (hb : (s.stand i).ctx.state.beforeFire = false) :
    ((s.runoutCheck i).stand i).ctx = (s.stand i).ctx := by
  obtain ⟨hstand, -⟩ := ((runoutCheck_spec s i).2 h).2 hb
  rw [hstand]

/-- In WATCH and NO_REEL a runout is recorded (R87). -/
theorem runoutCheck_records (h : s.RunoutDue i) (hw : (s.stand i).ctx.state = .watch ∨ (s.stand i).ctx.state = .noReel) :
    (s.runoutCheck i).nextSeq = s.nextSeq + 1 ∧ ∃ r ∈ (s.runoutCheck i).log,
      r.seq = s.nextSeq ∧ r.stand = i ∧ r.time = s.clock ∧ r.outcome = .runout ∧ r.cause = none := by
  have hb : (s.stand i).ctx.state.beforeFire = false := by rcases hw with hw | hw <;> rw [hw] <;> rfl
  obtain ⟨-, hrecord, -⟩ := ((runoutCheck_spec s i).2 h).2 hb
  rw [hrecord hw, writeOutcome_silent _ _ _ (.inr rfl)]
  refine ⟨?_, _, List.mem_append_right _ (List.mem_singleton.2 rfl), ?_, rfl, ?_, rfl, rfl⟩
  · show (State.raise _ i .runout).nextSeq + 1 = _
    rw [nextSeq_raise_eq, nextSeq_setStand]
  · exact nextSeq_raise_eq _ i .runout
  · exact clock_raise _ i .runout

/-- Elsewhere a runout writes no record. -/
theorem log_runoutCheck (h : s.RunoutDue i) (hb : (s.stand i).ctx.state.beforeFire = false)
    (hw : (s.stand i).ctx.state ≠ .watch) (hn : (s.stand i).ctx.state ≠ .noReel) : (s.runoutCheck i).log = s.log := by
  obtain ⟨-, -, hraise⟩ := ((runoutCheck_spec s i).2 h).2 hb
  rw [hraise hw hn, log_raise_eq, log_setStand]

theorem runoutCheck_leaves_matched (h : s.RunoutDue i) : ((s.runoutCheck i).stand i).ctx.state ≠ .matched := by
  cases hb : (s.stand i).ctx.state.beforeFire with
  | true =>
    obtain ⟨hstate, -⟩ := runoutCheck_aborts h hb
    rw [hstate]
    simp
  | false =>
    rw [ctx_runoutCheck h hb]
    intro hm
    rw [hm] at hb
    cases hb

theorem enterFireWait_keeps (s : State) (i : StandNo) :
    measurement ((s.enterFireWait i).stand i) = measurement (s.stand i) ∧
      ((s.enterFireWait i).stand i).runoutFired = (s.stand i).runoutFired := by
  obtain ⟨harms, haborts⟩ := enterFireWait_spec s i
  cases hq : (s.stand i).freshCh.lastPeriod with
  | some q =>
    rw [(harms q hq).2]
    exact ⟨rfl, rfl⟩
  | none =>
    rw [(haborts hq).stand]
    exact ⟨rfl, rfl⟩

theorem runPeriod_of_runout (h : (s.measureRunning i p).RunoutDue i) :
    s.runPeriod i p = (s.measureRunning i p).runoutCheck i := by
  unfold runPeriod
  exact if_neg fun hm => runoutCheck_leaves_matched h hm.1

theorem runPeriod_of_no_runout (h : ¬ (s.measureRunning i p).RunoutDue i) (hm : ¬ (
    ((s.measureRunning i p).stand i).ctx.state = .matched ∧ (s.measureRunning i p).atSpliceDiameter i = true)) :
    s.runPeriod i p = s.measureRunning i p := by
  unfold runPeriod
  rw [runoutCheck_of_not_due h]
  exact if_neg hm

/-- In MATCHED a D_run at the splice diameter goes on to FIRE_WAIT (R69). -/
theorem runPeriod_of_spliceDiameter (h : ¬ (s.measureRunning i p).RunoutDue i)
    (hm : ((s.measureRunning i p).stand i).ctx.state = .matched) (hd : (s.measureRunning i p).atSpliceDiameter i = true) :
    s.runPeriod i p = (s.measureRunning i p).enterFireWait i := by
  unfold runPeriod
  rw [runoutCheck_of_not_due h]
  exact if_pos ⟨hm, hd⟩

theorem runPeriod_keeps_of_no_runout (h : ¬ (s.measureRunning i p).RunoutDue i) :
    measurement ((s.runPeriod i p).stand i) = measurement ((s.measureRunning i p).stand i) ∧
      ((s.runPeriod i p).stand i).runoutFired = ((s.measureRunning i p).stand i).runoutFired := by
  by_cases hm : ((s.measureRunning i p).stand i).ctx.state = .matched ∧ (s.measureRunning i p).atSpliceDiameter i = true
  · rw [runPeriod_of_spliceDiameter h hm.1 hm.2]
    exact enterFireWait_keeps _ i
  · rw [runPeriod_of_no_runout h hm]
    exact ⟨rfl, rfl⟩

theorem measurement_runPeriod (s : State) (i : StandNo) (p : Nat) :
    measurement ((s.runPeriod i p).stand i) = measurement ((s.measureRunning i p).stand i) := by
  by_cases h : (s.measureRunning i p).RunoutDue i
  · rw [runPeriod_of_runout h]
    exact (runoutCheck_fires h).1
  · exact (runPeriod_keeps_of_no_runout h).1

/-! ### V_f (R52, R53) -/

/-- D_fresh as V_f reads it: the splice's own from RUNUP through CUT, else the one that the head reel would give now, 0 with no
head (R52, R53). -/
def freshInForce (s : State) (i : StandNo) : Nat :=
  if (s.stand i).ctx.state.splicing then (s.stand i).dFresh
  else match (s.stand i).queue.head? with
    | none => 0
    | some r => (s.freshChoice i r).1

theorem surfaceSpeed_eq (d p : Nat) : surfaceSpeed d p = min 16000 (d * 35500000 / (113 * p)) := capNat_eq_min _ _

theorem measureFresh_eq (s : State) (i : StandNo) (p : Nat) : s.measureFresh i p =
    s.modStand i fun x => { x with vFresh := min 16000 (s.freshInForce i * 35500000 / (113 * p)) } := by
  unfold measureFresh freshInForce
  cases hsp : (s.stand i).ctx.state.splicing with
  | true => simp only [surfaceSpeed_eq, if_true]
  | false =>
    cases hq : (s.stand i).queue.head? with
    | none =>
      have hsel : s.selectFresh i = none := by rw [selectFresh, head, hq]
      simp [hsel]
    | some r =>
      simp only [selectFresh_eq s i r hq, surfaceSpeed_eq, Bool.false_eq_true, if_false]

/-- D_fresh hangs on none of the pulse channels. -/
theorem freshInForce_setFresh (s : State) (i : StandNo) (c : PulseChannel) :
    (s.setChannel i .fresh c).freshInForce i = s.freshInForce i := by
  unfold freshInForce freshChoice
  rw [stand_setChannel]
  rfl

end

end State

end Machine

end Sys2Proof

open Sys2Proof Sys2Proof.Machine Sys2Proof.Machine.State

/-- Settles O32: the period is measured first, and each check that follows is one of the cases of `runoutCheck_spec` and
`enterFireWait_spec`. -/
theorem runningDiameterMeasured : Obligations.RunningDiameterMeasured := by
  intro s t m i first g c p k d good was grade hen ha hc hg hst hm hp hp'
  let x : State := (s.setClock t).setChannel i .run (periodTaken c t p)
  let z : State := x.measureRunning i p
  have hexec : exec (.changeAccepted t i .run first) s = .next (x.runPeriod i p) :=
    (exec_changeAccepted_of_valid (ch := .run) first ha hc hg hst hm hp hp').trans
      (congrArg Host.Outcome.next (if_pos (by rw [stand_setChannel, record_setChannel]; exact hen)))
  obtain ⟨dRun, measured, hz, hgood, hheld⟩ : ∃ (dRun : Nat) (measured : Bool), z = (s.setClock t).setStand i { was with
      runCh := periodTaken c t p, dRun := dRun, measured := measured } ∧ (good → dRun = d ∧ measured = true) ∧
      (¬ good → dRun = was.dRun ∧ measured = false) := runMeasured_spec s t i p
  have hzs : z.stand i = { was with runCh := periodTaken c t p, dRun := dRun, measured := measured } := by
    rw [hz, stand_setStand, if_pos rfl]
  have hctx : (z.stand i).ctx = was.ctx := by rw [hzs]
  have hkept : (z.stand i).runoutFired = was.runoutFired := by rw [hzs]
  have hevents : (z.stand i).events = was.events := by rw [hzs]
  have hgrade : z.runningGrade i = grade := by rw [runningGrade, hzs, hz]; rfl
  have hclock : z.clock = t := by rw [hz]; rfl
  have hseq : z.nextSeq = s.nextSeq := by rw [hz]; rfl
  have hlog : z.log = s.log := by rw [hz]; rfl
  have hport : z.port = s.port := by rw [hz]; rfl
  obtain ⟨hrunCh, hdRun, hmeasured⟩ : ((x.runPeriod i p).stand i).runCh = periodTaken c t p ∧
      ((x.runPeriod i p).stand i).dRun = dRun ∧ ((x.runPeriod i p).stand i).measured = measured := by
    have h : measurement ((x.runPeriod i p).stand i) = measurement (z.stand i) := measurement_runPeriod x i p
    rw [hzs] at h
    simpa only [measurement, Prod.mk.injEq] using h
  have hdue : z.RunoutDue i ↔ was.running ≠ none ∧ was.runoutFired = false ∧
      ((x.runPeriod i p).stand i).dRun ≤ grade.core + grade.runoutMargin := by
    rw [RunoutDue, hgrade, hzs, hdRun]
  have hat : z.atSpliceDiameter i = true ↔ ((x.runPeriod i p).stand i).dRun ≤ grade.spliceDiameter := by
    rw [atSpliceDiameter, hgrade, hzs, hdRun, decide_eq_true_eq]
  refine ⟨_, hexec, ((setChannel_own (s.setClock t) i .run _).trans (runPeriod_own x i p)).afterClock,
    hrunCh.trans (periodTaken_eq c t p), fun h => ?_, fun h => ?_, fun hrunout => ?_, fun hquiet => ?_⟩
  · rw [hdRun, hmeasured]
    exact hgood h
  · rw [hdRun, hmeasured]
    exact hheld h
  · have h : z.RunoutDue i := hdue.2 hrunout
    rw [runPeriod_of_runout h, ← hctx, ← hseq, ← hclock, ← hlog]
    obtain ⟨-, hfired, hevent⟩ := runoutCheck_fires h
    refine ⟨hfired, hevent, runoutCheck_aborts h, fun hw => ⟨ctx_runoutCheck h ?_, runoutCheck_records h hw⟩,
      fun hb hw hn => ⟨ctx_runoutCheck h hb, log_runoutCheck h hb hw hn⟩⟩
    rcases hw with hw | hw <;> rw [hw] <;> rfl
  · have h : ¬ z.RunoutDue i := mt hdue.1 hquiet
    refine ⟨?_, fun hstay => ?_, fun hmatched hd => ?_⟩
    · rw [(runPeriod_keeps_of_no_runout h).2]
      exact hkept
    · rw [runPeriod_of_no_runout h (by rw [hctx, hat]; exact hstay)]
      exact ⟨hctx, hevents, hlog, hport⟩
    · rw [runPeriod_of_spliceDiameter h (by rw [hctx]; exact hmatched) (hat.2 hd)]
      obtain ⟨harms, haborts⟩ := enterFireWait_spec z i
      rw [hzs] at harms haborts
      refine ⟨fun q hq => ?_, fun hq => ?_⟩
      · rw [(harms q hq).2, hclock]
      · rw [(haborts hq).stand]
        exact ⟨rfl, rfl⟩

/-- Settles O33: V_f is measured on the state with the period taken, where D_fresh is what it was. -/
theorem freshPeriodHandedOn : Obligations.FreshPeriodHandedOn := by
  intro s t m i first g c p dFresh hen ha hc hg hst hm hp hp' y
  let x : State := (s.setClock t).setChannel i .fresh (periodTaken c t p)
  have hexec : exec (.changeAccepted t i .fresh first) s = .next (x.freshPeriod i p first) := by
    have hxen : (x.stand i).record.enabled = true := by
      rw [stand_setChannel, record_setChannel]
      exact hen
    exact (exec_changeAccepted_of_valid (ch := .fresh) first ha hc hg hst hm hp hp').trans
      (congrArg Host.Outcome.next (if_pos hxen))
  have hd : x.freshInForce i = dFresh := freshInForce_setFresh (s.setClock t) i _
  have hy : x.measureFresh i p = y := by
    rw [measureFresh_eq, hd]
    exact (modStand_modStand (s.setClock t) i _ _).trans (by rw [periodTaken_eq]; rfl)
  rw [hexec, ← hy]
  rfl
end

section
/-! SUPPORT. What a command may do to the contexts and the reel queues: each move of a splice, each settling and each change of
a queue keeps the contexts lawful and the ready mark on the head alone (O58). -/

namespace Sys2Proof

namespace Machine

/-! ### One stand -/

/-- The ready mark stands on the head of a reel queue alone (R13). -/
def ReadyFirst (q : List ReelRecord) : Prop := ∀ r ∈ q.tail, r.ready = false

/-- A reel queue has a head, and it carries the ready mark. -/
def HeadReady (q : List ReelRecord) : Prop := ∃ r, q.head? = some r ∧ r.ready = true

theorem readyFirst_modifyHead {q : List ReelRecord} (h : ReadyFirst q) (f : ReelRecord → ReelRecord) :
    ReadyFirst (q.modifyHead f) := by cases q <;> exact h

/-- The records behind a head that leaves (R22, R23). -/
theorem readyFirst_closeUp {q : List ReelRecord} (h : ReadyFirst q) : ReadyFirst (State.closeUp q) :=
  readyFirst_modifyHead (fun r hr => h r (List.mem_of_mem_tail hr)) _

/-- A record that is not ready joins a queue at its tail (R15). -/
theorem readyFirst_append {q : List ReelRecord} (h : ReadyFirst q) {r : ReelRecord} (hr : r.ready = false) :
    ReadyFirst (q ++ [r]) := by
  cases q with
  | nil => exact fun _ hx => by cases hx
  | cons a q =>
    intro x hx
    rcases List.mem_append.1 hx with hx | hx
    · exact h x hx
    · rw [List.mem_singleton.1 hx, hr]

/-- What stands behind a record of a queue is not ready after a DROP REEL when it was not before (R16). -/
theorem unready_withoutReel {q : List ReelRecord} (id : ReelId) (h : ∀ r ∈ q, r.ready = false) :
    ∀ r ∈ State.withoutReel id q, r.ready = false := by
  induction q with
  | nil => exact h
  | cons a q ih =>
    rw [List.forall_mem_cons] at h
    unfold State.withoutReel
    split
    · simp
    · exact List.forall_mem_cons.2 ⟨h.1, ih h.2⟩

theorem readyFirst_withoutReel {q : List ReelRecord} (id : ReelId) (h : ReadyFirst q) :
    ReadyFirst (State.withoutReel id q) := by
  cases q with
  | nil => exact h
  | cons a q =>
    unfold State.withoutReel
    split
    · intro r hr
      have hall : ∀ x ∈ q.map fun x => { x with ready := false }, x.ready = false := by simp
      exact hall r (List.mem_of_mem_tail hr)
    · exact unready_withoutReel id h

namespace Stand

/-- The context of a stand is lawful in a part mode: what `State.ContextsLawful` says of each stand. -/
structure Lawful (m : Mode) (x : Stand) : Prop where
  rest : x.ctx.state.resting = true → x.ctx.state = State.restingFor m x
  config : m = .config → x.ctx.state = .off ∨ x.ctx.state = .idle
  head : x.ctx.state.splicing = true → HeadReady x.queue
  enabled : x.ctx.state.resting = false → x.record.enabled = true
  off : x.ctx.state = .off → x.ctx.auto = false

/-- What the laws read of a stand. -/
def standing (x : Stand) : CtxState × Bool × Bool × Option RunningReel × List ReelRecord :=
  (x.ctx.state, x.ctx.auto, x.record.enabled, x.running, x.queue)

theorem Lawful.congr {m : Mode} {x y : Stand} (h : x.Lawful m) (e : y.standing = x.standing) : y.Lawful m := by
  obtain ⟨hstate, hauto, henabled, hrunning, hqueue⟩ : y.ctx.state = x.ctx.state ∧ y.ctx.auto = x.ctx.auto ∧
      y.record.enabled = x.record.enabled ∧ y.running = x.running ∧ y.queue = x.queue := by
    simpa only [standing, Prod.mk.injEq] using e
  obtain ⟨rest, config, head, enabled, off⟩ := h
  constructor
  · rw [hstate]
    intro hr
    rw [rest hr]
    simp only [State.restingFor, henabled, hauto, hrunning, hqueue]
  · rwa [hstate]
  · rwa [hstate, hqueue]
  · rwa [hstate, henabled]
  · rwa [hstate, hauto]

variable {m : Mode} {x y : Stand}

theorem resting_restingFor : (State.restingFor m x).resting = true := by
  unfold State.restingFor
  repeat' split
  all_goals rfl

/-- The conditions of R61 for WATCH. -/
theorem of_restingFor_watch (h : State.restingFor m x = .watch) :
    x.record.enabled = true ∧ m ≠ .config ∧ HeadReady x.queue := by
  unfold State.restingFor at h
  split at h
  · cases h
  · rename_i he
    split at h
    · cases h
    · rename_i hc
      split at h
      · rename_i hw
        refine ⟨by simpa using he, fun e => hc (.inl e), ?_⟩
        exact (Option.any_eq_true _ _).1 hw.2
      · cases h

theorem restingFor_off_iff : State.restingFor m x = .off ↔ x.record.enabled = false := by
  unfold State.restingFor
  repeat' split
  all_goals simp_all

theorem restingFor_config : State.restingFor .config x = .off ∨ State.restingFor .config x = .idle := by
  unfold State.restingFor
  split
  · exact .inl rfl
  · exact .inr (if_pos (.inl rfl))

theorem not_resting_of_splicing {c : CtxState} (h : c.splicing = true) : c.resting = false := by
  revert h
  cases c <;> decide

theorem splicing_of_beforeFire {c : CtxState} (h : c.beforeFire = true) : c.splicing = true := by
  simp [CtxState.splicing, h]

/-- A lawful context outside the resting states is in RUN or HOLD. -/
theorem Lawful.not_config (h : x.Lawful m) (hn : x.ctx.state.resting = false) : m ≠ .config := by
  intro e
  rcases h.config e with h | h <;> rw [h] at hn <;> cases hn

/-- A lawful context of a stand out of use has its auto mark clear. -/
theorem Lawful.enabled_or_auto (h : x.Lawful m) : x.record.enabled = true ∨ x.ctx.auto = false := by
  cases hr : x.ctx.state.resting with
  | false => exact .inl (h.enabled hr)
  | true =>
    cases he : x.record.enabled with
    | true => exact .inl rfl
    | false => exact .inr (h.off ((h.rest hr).trans (restingFor_off_iff.2 he)))

/-- A stand in OFF is one out of use. -/
theorem Lawful.enabled_of_not_off (h : x.Lawful m) (ho : x.ctx.state ≠ .off) : x.record.enabled = true := by
  cases hr : x.ctx.state.resting with
  | false => exact h.enabled hr
  | true =>
    rw [h.rest hr] at ho
    simpa using mt restingFor_off_iff.2 ho

/-- What a splice needs of its stand: in WATCH and from RUNUP through CUT the stand is enabled, in RUN or HOLD, with a ready
head. -/
theorem Lawful.ready_to_splice (h : x.Lawful m) (hs : x.ctx.state = .watch ∨ x.ctx.state.splicing = true) :
    x.record.enabled = true ∧ m ≠ .config ∧ HeadReady x.queue := by
  rcases hs with hs | hs
  · exact of_restingFor_watch ((h.rest (by rw [hs]; rfl)).symm.trans hs)
  · have hn := not_resting_of_splicing hs
    exact ⟨h.enabled hn, h.not_config hn, h.head hs⟩

theorem lawful_of_splicing (hs : x.ctx.state.splicing = true) (he : x.record.enabled = true) (hm : m ≠ .config)
    (hq : HeadReady x.queue) : x.Lawful m where
  rest hr := by rw [not_resting_of_splicing hs] at hr; cases hr
  config e := absurd e hm
  head _ := hq
  enabled _ := he
  off e := by rw [e] at hs; cases hs

theorem lawful_of_stopping (hs : x.ctx.state = .stopping) (he : x.record.enabled = true) (hm : m ≠ .config) :
    x.Lawful m where
  rest hr := by rw [hs] at hr; cases hr
  config e := absurd e hm
  head h := by rw [hs] at h; cases h
  enabled _ := he
  off e := by rw [e] at hs; cases hs

theorem lawful_of_resting (hs : x.ctx.state = State.restingFor m x)
    (h : x.record.enabled = true ∨ x.ctx.auto = false) : x.Lawful m where
  rest _ := hs
  config e := by
    subst e
    rw [hs]
    exact restingFor_config
  head h := absurd (not_resting_of_splicing h) (by rw [hs, resting_restingFor]; decide)
  enabled h := by rw [hs, resting_restingFor] at h; cases h
  off e := by
    rcases h with h | h
    · rw [restingFor_off_iff.1 (hs.symm.trans e)] at h
      cases h
    · exact h

/-- A context outside the resting states stays lawful in RUN and HOLD while its state, its stand's use and a ready head last. -/
theorem Lawful.carried (h : x.Lawful m) (hn : x.ctx.state.resting = false) {m' : Mode} (hm : m' ≠ .config)
    (hs : y.ctx.state = x.ctx.state) (he : y.record.enabled = x.record.enabled)
    (hq : x.ctx.state.splicing = true → HeadReady x.queue → HeadReady y.queue) : y.Lawful m' where
  rest hr := by rw [hs, hn] at hr; cases hr
  config e := absurd e hm
  head hsp := by
    rw [hs] at hsp
    exact hq hsp (h.head hsp)
  enabled _ := he.trans (h.enabled hn)
  off e := by rw [← hs, e] at hn; cases hn

/-- Settling makes a context lawful (R61). -/
theorem lawful_settled (o : Output) (hn : x.ctx.state.resting = false → x.Lawful m)
    (ha : x.record.enabled = true ∨ x.ctx.auto = false) :
    ({ x with ctx := State.settledCtx m x, out := o } : Stand).Lawful m := by
  cases hr : x.ctx.state.resting with
  | false =>
    refine (hn hr).congr ?_
    simp [standing, State.settledCtx, hr]
  | true =>
    by_cases he : State.restingFor m x = x.ctx.state
    · refine lawful_of_resting ?_ ?_
      · simp only [State.settledCtx, he, or_true, if_true]
        exact he.symm
      · simpa only [State.settledCtx, he, or_true, if_true] using ha
    · have hc : State.settledCtx m x =
          { x.ctx with state := State.restingFor m x, early := false, cause := none, prewarn := false } := by
        simp [State.settledCtx, hr, he]
      rw [hc]
      exact lawful_of_resting rfl ha

end Stand

namespace State

/-! ### The laws of the contexts -/

theorem contextsLawful_iff (s : State) : s.ContextsLawful ↔ ∀ i, (s.stand i).Lawful s.mode :=
  ⟨fun h i => have ⟨rest, config, head, enabled, off⟩ := h i; ⟨fun hr => (rest hr).trans (restState_eq s i), config, head,
      enabled, off⟩,
    fun h i => have ⟨rest, config, head, enabled, off⟩ := h i; ⟨fun hr => (rest hr).trans (restState_eq s i).symm, config,
      head, enabled, off⟩⟩

/-- What O58 says of a step: it keeps the contexts lawful, and it keeps the ready mark on the head of a queue alone. -/
structure LawKept (s t : State) : Prop where
  contexts : s.ContextsLawful → t.ContextsLawful
  ready : s.ReadyOnHeadAlone → t.ReadyOnHeadAlone

theorem LawKept.refl (s : State) : LawKept s s := ⟨id, id⟩

theorem LawKept.trans {s t u : State} (h : LawKept s t) (k : LawKept t u) : LawKept s u :=
  ⟨k.contexts ∘ h.contexts, k.ready ∘ h.ready⟩

/-- A step that keeps the laws of each stand by itself. -/
theorem LawKept.of_each {s t : State} (hl : ∀ i, (s.stand i).Lawful s.mode → (t.stand i).Lawful t.mode)
    (hq : ∀ i, ReadyFirst (s.stand i).queue → ReadyFirst (t.stand i).queue) : LawKept s t :=
  ⟨fun h => (contextsLawful_iff t).2 fun i => hl i ((contextsLawful_iff s).1 h i), fun h i => hq i (h i)⟩

/-- A step that changes nothing the laws read. -/
theorem LawKept.of_standing {s t : State} (hm : t.mode = s.mode) (h : ∀ i, (t.stand i).standing = (s.stand i).standing) :
    LawKept s t :=
  .of_each (fun i hl => by rw [hm]; exact hl.congr (h i)) fun i hq => by
    have he : (t.stand i).queue = (s.stand i).queue := congrArg (·.2.2.2.2) (h i)
    rw [he]
    exact hq

theorem OwnChange.contextsLawful {i : StandNo} {s t : State} (h : OwnChange i s t)
    (hl : (s.stand i).Lawful s.mode → (t.stand i).Lawful s.mode) (hs : s.ContextsLawful) : t.ContextsLawful := by
  rw [contextsLawful_iff] at hs ⊢
  intro j
  rw [h.mode]
  by_cases e : j = i
  · subst e
    exact hl (hs j)
  · rw [h.stands j e]
    exact hs j

theorem OwnChange.readyOnHeadAlone {i : StandNo} {s t : State} (h : OwnChange i s t)
    (hq : ReadyFirst (s.stand i).queue → ReadyFirst (t.stand i).queue) (hs : s.ReadyOnHeadAlone) :
    t.ReadyOnHeadAlone := by
  intro j
  by_cases e : j = i
  · subst e
    exact hq (hs j)
  · rw [h.stands j e]
    exact hs j

/-- An operation of one stand that keeps the laws of that stand. -/
theorem OwnChange.lawKept {i : StandNo} {s t : State} (h : OwnChange i s t)
    (hl : (s.stand i).Lawful s.mode → (t.stand i).Lawful s.mode)
    (hq : ReadyFirst (s.stand i).queue → ReadyFirst (t.stand i).queue) : LawKept s t :=
  ⟨h.contextsLawful hl, h.readyOnHeadAlone hq⟩

/-- An operation of one stand that changes nothing the laws read. -/
theorem OwnChange.lawKept_of_standing {i : StandNo} {s t : State} (h : OwnChange i s t)
    (hs : (t.stand i).standing = (s.stand i).standing) : LawKept s t :=
  .of_standing h.mode fun j => by
    by_cases e : j = i
    · rw [e, hs]
    · rw [h.stands j e]

theorem TxOnly.lawKept {s t : State} (h : TxOnly s t) : LawKept s t := .of_standing h.mode fun i => by rw [h.stand i]

theorem modStand_lawKept (s : State) (i : StandNo) (f : Stand → Stand)
    (h : ∀ x, (f x).standing = x.standing := by exact fun _ => rfl) : LawKept s (s.modStand i f) :=
  (modStand_own s i f).lawKept_of_standing (by rw [stand_modStand, if_pos rfl, h])

theorem modLoop_lawKept (s : State) (i : StandNo) (f : Loop → Loop) : LawKept s (s.modLoop i f) :=
  modStand_lawKept s i _

theorem modOut_lawKept (s : State) (i : StandNo) (f : Output → Output) : LawKept s (s.modOut i f) :=
  modStand_lawKept s i _

/-- A change of a context that leaves its state and its auto mark. -/
theorem modCtx_lawKept (s : State) (i : StandNo) (f : Context → Context)
    (hs : ∀ c, (f c).state = c.state := by exact fun _ => rfl) (ha : ∀ c, (f c).auto = c.auto := by exact fun _ => rfl) :
    LawKept s (s.modCtx i f) :=
  modStand_lawKept s i _ fun x => by simp only [Stand.standing, hs, ha]

theorem modPort_lawKept (s : State) (f : Port → Port) : LawKept s (s.modPort f) := .of_standing rfl fun _ => rfl

theorem setClock_lawKept (s : State) (t : Time) : LawKept s (s.setClock t) := .of_standing rfl fun _ => rfl

theorem trackers_lawKept (s : State) (v : Vector Tracker 6) : LawKept s { s with trackers := v } :=
  .of_standing rfl fun _ => rfl

theorem setTracker_lawKept (s : State) (k : SlotNo) (x : Tracker) : LawKept s (s.setTracker k x) :=
  trackers_lawKept s _

theorem mapTrackers_lawKept (s : State) (f : SlotNo → Tracker → Tracker) : LawKept s (s.mapTrackers f) := by
  rw [mapTrackers_rest]
  exact trackers_lawKept s _

theorem forStands_lawKept (o : List StandNo) (f : StandNo → State → State) (h : ∀ i x, LawKept x (f i x)) (s : State) :
    LawKept s (forStands o f s) :=
  forStands_keeps o f (LawKept s) (fun i x hx => hx.trans (h i x)) s (.refl s)

theorem raise_lawKept (s : State) (i : StandNo) (k : EventKind) : LawKept s (s.raise i k) :=
  (raise_own s i k).lawKept_of_standing (by rw [stand_raise_eq, if_pos rfl]; rfl)

theorem writeOutcome_lawKept (s : State) (i : StandNo) (o : SpliceOutcome) : LawKept s (s.writeOutcome i o) :=
  (writeOutcome_own s i o).lawKept_of_standing (by rw [stand_writeOutcome])

theorem stopLoop_lawKept (s : State) (i : StandNo) : LawKept s (s.stopLoop i) :=
  (modLoop_lawKept s i _).trans (withdrawReferences_txOnly _ i).lawKept

theorem setPrewarn_lawKept (s : State) (i : StandNo) (b : Bool) : LawKept s (s.setPrewarn i b) :=
  (setPrewarn_own s i b).lawKept_of_standing (by rw [stand_setPrewarn, if_pos rfl]; rfl)

theorem risePrewarn_lawKept (s : State) (i : StandNo) : LawKept s (s.risePrewarn i) := by
  unfold risePrewarn
  split
  · exact .refl s
  · exact (setPrewarn_lawKept s i true).trans (raise_lawKept _ i _)

/-! ### Moves of a splice -/

@[simp] theorem state_enterState (s : State) (i : StandNo) (c : CtxState) :
    ((s.enterState i c).stand i).ctx.state = c := by rw [stand_enterState, if_pos rfl]

/-- The context moves on within RUNUP through CUT, or into them from WATCH. -/
theorem enterState_lawKept {s : State} {i : StandNo} {c : CtxState}
    (h : (s.stand i).ctx.state = .watch ∨ (s.stand i).ctx.state.splicing = true) (hc : c.splicing = true) :
    LawKept s (s.enterState i c) := by
  have hs := stand_enterState s i i c
  rw [if_pos rfl] at hs
  refine (enterState_own s i c).lawKept (fun hl => ?_) fun hq => ?_
  · obtain ⟨he, hm, hq⟩ := hl.ready_to_splice h
    rw [hs]
    exact Stand.lawful_of_splicing hc he hm hq
  · rw [hs]
    exact hq

/-- A splice comes to STOPPING. -/
theorem enterStopping_lawKept {s : State} {i : StandNo} (h : (s.stand i).ctx.state.resting = false) :
    LawKept s (s.enterState i .stopping) := by
  have hs := stand_enterState s i i .stopping
  rw [if_pos rfl] at hs
  refine (enterState_own s i .stopping).lawKept (fun hl => ?_) fun hq => ?_
  · rw [hs]
    exact Stand.lawful_of_stopping rfl (hl.enabled h) (hl.not_config h)
  · rw [hs]
    exact hq

/-- In STOPPING the head loses its ready mark (R23). -/
theorem clearHeadReady_lawKept {s : State} {i : StandNo} (h : (s.stand i).ctx.state = .stopping) :
    LawKept s (s.clearHeadReady i) := by
  have hs := stand_clearHeadReady s i i
  rw [if_pos rfl] at hs
  have hn : (s.stand i).ctx.state.resting = false := by rw [h]; rfl
  refine (clearHeadReady_own s i).lawKept (fun hl => ?_) fun hq => ?_
  · rw [hs]
    exact Stand.lawful_of_stopping h (hl.enabled hn) (hl.not_config hn)
  · rw [hs]
    exact readyFirst_modifyHead hq _

/-- An abort takes a splice to STOPPING, its head no longer ready (R84). -/
theorem abort_lawKept {s : State} {i : StandNo} (h : (s.stand i).ctx.state.resting = false) (c : AbortCause) :
    LawKept s (s.abort i c) := by
  have hs := (abort_spec s i c).stand
  refine (abort_own s i c).lawKept (fun hl => ?_) fun hq => ?_
  · rw [hs]
    exact Stand.lawful_of_stopping rfl (hl.enabled h) (hl.not_config h)
  · rw [hs]
    exact readyFirst_modifyHead hq _

theorem not_resting_of_beforeFire {c : CtxState} (h : c.beforeFire = true) : c.resting = false :=
  Stand.not_resting_of_splicing (Stand.splicing_of_beforeFire h)

theorem abortBeforeFire_lawKept (s : State) (i : StandNo) (c : AbortCause) : LawKept s (s.abortBeforeFire i c) := by
  unfold abortBeforeFire
  split
  · exact abort_lawKept (not_resting_of_beforeFire ‹_›) c
  · exact .refl s

theorem enterFireWait_lawKept {s : State} {i : StandNo} (h : (s.stand i).ctx.state.splicing = true) :
    LawKept s (s.enterFireWait i) := by
  have he : LawKept s (s.enterState i .fireWait) := enterState_lawKept (.inr h) rfl
  unfold enterFireWait
  dsimp only
  split
  · exact he.trans (abort_lawKept (by rw [state_enterState]; rfl) .noTab)
  · exact he.trans (modCtx_lawKept _ i _)

theorem lockSet_lawKept (s : State) (i : StandNo) : LawKept s (s.lockSet i) := by
  unfold lockSet enterMatched
  dsimp only
  split
  · rename_i h
    have he : LawKept s (s.enterState i .matched) := enterState_lawKept (.inr (by rw [h]; rfl)) rfl
    repeat' split
    · exact he.trans (abort_lawKept (by rw [state_enterState]; rfl) .tension)
    · exact he.trans (enterFireWait_lawKept (by rw [state_enterState]; rfl))
    · exact he
  · exact .refl s

/-- The loop has lost its lock: a splice in MATCHED, FIRE_WAIT or FIRE_SET goes back to RUNUP (R70). -/
theorem lockCleared_lawKept (s : State) (i : StandNo) : LawKept s (s.lockCleared i) := by
  obtain ⟨hstays, hclears⟩ := lockCleared_spec s i
  by_cases h : (s.stand i).ctx.state = .matched ∨ (s.stand i).ctx.state = .fireWait ∨ (s.stand i).ctx.state = .fireSet
  · have hsp : (s.stand i).ctx.state.splicing = true := by rcases h with h | h | h <;> rw [h] <;> rfl
    obtain ⟨-, -, hs⟩ := hclears h
    refine (lockCleared_own s i).lawKept (fun hl => ?_) fun hq => ?_
    · obtain ⟨he, hm, hq⟩ := hl.ready_to_splice (.inr hsp)
      rw [hs]
      exact Stand.lawful_of_splicing rfl he hm hq
    · rw [hs]
      exact hq
  · rw [hstays h]
    exact .refl s

theorem leaveFireSet_lawKept (s : State) (i : StandNo) : LawKept s (s.leaveFireSet i) := by
  unfold leaveFireSet
  split
  · rename_i h
    exact (modOut_lawKept s i _).trans (enterState_lawKept (.inr (by rw [stand_modOut, if_pos rfl, h]; rfl)) rfl)
  · exact .refl s

theorem announceRunout_lawKept (s : State) (i : StandNo) : LawKept s (s.announceRunout i) := by
  unfold announceRunout
  split
  case h_1 h | h_2 h | h_3 h | h_4 h => exact abort_lawKept (by rw [h]; rfl) .runout
  case h_5 | h_6 => exact writeOutcome_lawKept s i .runout
  all_goals exact .refl s

theorem runoutCheck_lawKept (s : State) (i : StandNo) : LawKept s (s.runoutCheck i) := by
  unfold runoutCheck
  dsimp only
  split
  · exact (modStand_lawKept s i (fun x => { x with runoutFired := true })).trans
      ((raise_lawKept _ i _).trans (announceRunout_lawKept _ i))
  · exact .refl s

theorem fixFresh_lawKept (s : State) (i : StandNo) : LawKept s (s.fixFresh i) := by
  unfold fixFresh
  split
  · exact .refl s
  · exact modStand_lawKept s i _

theorem resetLoop_lawKept (s : State) (i : StandNo) : LawKept s (s.resetLoop i) := by
  have hkill := (modLoop_lawKept s i fun _ => { Loop.start with activity := .running }).trans
    (killReferences_txOnly _ i).lawKept
  unfold resetLoop
  dsimp only
  split
  · exact hkill.trans ((modPort_lawKept _ _).trans (raise_lawKept _ i _))
  · exact hkill

/-- RUNUP is entered from WATCH alone, where R61 has found the stand enabled and its head ready (R67). -/
theorem enterRunUp_lawKept {s : State} {i : StandNo} (h : (s.stand i).ctx.state = .watch) : LawKept s (s.enterRunUp i) :=
  (enterState_lawKept (c := .runUp) (.inl h) rfl).trans <|
    (modCtx_lawKept _ i freshFigures).trans <| (fixFresh_lawKept _ i).trans <|
      (resetLoop_lawKept _ i).trans <| (risePrewarn_lawKept _ i).trans (raise_lawKept _ i .runUpStart)

theorem predict_lawKept {s : State} {i : StandNo} (h : (s.stand i).ctx.state = .watch) : LawKept s (s.predict i) := by
  have hrise := risePrewarn_lawKept s i
  have hw : ((s.risePrewarn i).stand i).ctx.state = .watch := by
    obtain ⟨o, hs, -⟩ := risePrewarn_stand s i
    rw [hs]
    exact h
  unfold predict
  dsimp only
  repeat' split
  · exact .refl s
  · exact hrise.trans (enterRunUp_lawKept hw)
  · exact hrise
  · exact enterRunUp_lawKept h
  · exact .refl s

theorem forceOff_lawKept (s : State) (i : StandNo) : LawKept s (s.forceOff i) := modOut_lawKept s i _

theorem failInterlock_lawKept {s : State} {i : StandNo} (h : (s.stand i).ctx.state = .pasting) :
    LawKept s (s.failInterlock i) := by
  unfold failInterlock
  refine (forceOff_lawKept s i).trans <| (modOut_lawKept _ i _).trans <| (writeOutcome_lawKept _ i _).trans <|
    (stopLoop_lawKept _ i).trans <| (queueDrive_txOnly _ i _).lawKept.trans <| (enterStopping_lawKept ?_).trans <|
    (clearHeadReady_lawKept (state_enterState _ i .stopping)).trans <| (setPrewarn_lawKept _ i _).trans
      (modCtx_lawKept _ i _)
  simp [stand_queueDrive, stand_writeOutcome, forceOff, h, CtxState.resting]

/-! ### Settling -/

/-- A splice ends with the entry to a resting state, its stand being in use. -/
theorem enterRest_lawKept {s z : State} {i : StandNo} (h : OwnChange i s z) (hn : (s.stand i).ctx.state.resting = false)
    (hr : z.recordAndLock = s.recordAndLock) (hq : s.ReadyOnHeadAlone → z.ReadyOnHeadAlone) :
    LawKept s (z.enterRest i) := by
  obtain ⟨o, hs⟩ := stand_enterRest z i i
  rw [if_pos rfl, h.mode] at hs
  have hrec : (z.stand i).record = (s.stand i).record := congrArg Prod.fst (congrFun hr i)
  refine ⟨(h.trans (enterRest_own z i)).contextsLawful fun hl => ?_,
    fun hready => (enterRest_own z i).readyOnHeadAlone (fun hz => ?_) (hq hready)⟩
  · rw [hs]
    exact Stand.lawful_of_resting rfl (.inl (by rw [hrec]; exact hl.enabled hn))
  · rw [hs]
    exact hz

/-- An operation of one stand ends with the settling of its context. -/
theorem settle_lawKept {s z : State} {i : StandNo} (h : OwnChange i s z)
    (hl : (s.stand i).Lawful s.mode → ((z.stand i).ctx.state.resting = false → (z.stand i).Lawful s.mode) ∧
      ((z.stand i).record.enabled = true ∨ (z.stand i).ctx.auto = false))
    (hq : s.ReadyOnHeadAlone → z.ReadyOnHeadAlone) : LawKept s (z.settle i) := by
  obtain ⟨o, hs⟩ := stand_settle z i i
  rw [if_pos rfl, h.mode] at hs
  refine ⟨(h.trans (settle_own z i)).contextsLawful fun hlaw => ?_,
    fun hready => (settle_own z i).readyOnHeadAlone (fun hz => ?_) (hq hready)⟩
  · obtain ⟨hn, ha⟩ := hl hlaw
    rw [hs]
    exact Stand.lawful_settled _ hn ha
  · rw [hs]
    exact hz

/-- A change of a stand's reels, after which its context settles (R21): a splice keeps its ready head. -/
theorem reelChange_lawKept (s : State) (i : StandNo) (f : Stand → Stand)
    (hf : (f (s.stand i)).ctx = (s.stand i).ctx ∧ (f (s.stand i)).record = (s.stand i).record)
    (hh : (s.stand i).ctx.state.splicing = true → HeadReady (s.stand i).queue → HeadReady (f (s.stand i)).queue)
    (hq : ReadyFirst (s.stand i).queue → ReadyFirst (f (s.stand i)).queue) :
    LawKept s ((s.modStand i f).settle i) := by
  obtain ⟨hctx, hrec⟩ := hf
  have hown := modStand_own s i f
  have hs : (s.modStand i f).stand i = f (s.stand i) := by rw [stand_modStand, if_pos rfl]
  refine settle_lawKept hown (fun hl => ?_) (hown.readyOnHeadAlone (by rw [hs]; exact hq))
  rw [hs, hctx, hrec]
  exact ⟨fun hn => hl.carried hn (hl.not_config hn) (by rw [hctx]) (by rw [hrec]) hh, hl.enabled_or_auto⟩

/-- A write of the auto mark, after which the context settles (R63). -/
theorem autoChange_lawKept (s : State) (i : StandNo) (b : Bool) (ho : b = true → (s.stand i).ctx.state ≠ .off) :
    LawKept s ((s.modCtx i fun c => { c with auto := b }).settle i) := by
  have hs : (s.modCtx i fun c => { c with auto := b }).stand i =
      { s.stand i with ctx := { (s.stand i).ctx with auto := b } } := by rw [stand_modCtx, if_pos rfl]
  have hown := modCtx_own s i fun c => { c with auto := b }
  refine settle_lawKept hown (fun hl => ?_) (hown.readyOnHeadAlone (by rw [hs]; exact id))
  rw [hs]
  refine ⟨fun hn => hl.carried hn (hl.not_config hn) rfl rfl fun _ h => h, ?_⟩
  cases b with
  | true => exact .inl (hl.enabled_of_not_off (ho rfl))
  | false => exact .inr rfl

/-! ### Reel sensing -/

theorem setChannel_lawKept (s : State) (i : StandNo) (ch : Channel) (c : PulseChannel) :
    LawKept s (s.setChannel i ch c) := modStand_lawKept s i _ fun x => by cases ch <;> rfl

theorem raiseEnabled_lawKept (s : State) (i : StandNo) (k : EventKind) : LawKept s (s.raiseEnabled i k) := by
  unfold raiseEnabled
  split
  · exact raise_lawKept s i k
  · exact .refl s

theorem updateChannel_lawKept (s : State) (i : StandNo) (ch : Channel) (c : PulseChannel) :
    LawKept s (s.updateChannel i ch c) := by
  have hset := setChannel_lawKept s i ch c
  unfold updateChannel
  dsimp only
  split
  · exact hset.trans ((raiseEnabled_lawKept _ i _).trans (abortBeforeFire_lawKept _ i _))
  · exact hset

theorem inputChanges_lawKept (s : State) (i : StandNo) (ch : Channel) (b : Bool) : LawKept s (s.inputChanges i ch b) := by
  unfold inputChanges
  dsimp only
  split
  · exact .refl s
  split
  · exact setChannel_lawKept s i ch _
  · exact (setChannel_lawKept s i ch _).trans ((raiseEnabled_lawKept _ i _).trans (updateChannel_lawKept _ i ch _))

theorem measureRunning_lawKept (s : State) (i : StandNo) (p : Nat) : LawKept s (s.measureRunning i p) := by
  unfold measureRunning
  dsimp only
  repeat' split
  all_goals exact modStand_lawKept s i _

theorem runPeriod_lawKept (s : State) (i : StandNo) (p : Nat) : LawKept s (s.runPeriod i p) := by
  have hcheck := (measureRunning_lawKept s i p).trans (runoutCheck_lawKept _ i)
  unfold runPeriod
  dsimp only
  split
  · rename_i h
    exact hcheck.trans (enterFireWait_lawKept (by rw [h.1]; rfl))
  · exact hcheck

theorem loopTab_lawKept (s : State) (i : StandNo) : LawKept s (s.loopTab i) := by
  unfold loopTab unlock detectLock
  dsimp only
  repeat' split
  · exact (modLoop_lawKept s i _).trans ((modLoop_lawKept _ i _).trans (lockCleared_lawKept _ i))
  · exact (modLoop_lawKept s i _).trans (modLoop_lawKept _ i _)
  · exact (modLoop_lawKept s i _).trans <| (modLoop_lawKept _ i _).trans <| (modLoop_lawKept _ i _).trans <|
      (raise_lawKept _ i _).trans (lockSet_lawKept _ i)
  · exact (modLoop_lawKept s i _).trans (modLoop_lawKept _ i _)
  · exact (modLoop_lawKept s i _).trans (modLoop_lawKept _ i _)
  · exact .refl s

theorem contextTab_lawKept (s : State) (i : StandNo) (p : Nat) : LawKept s (s.contextTab i p) := by
  have hmark (x : State) : LawKept x (x.modCtx i fun c => { c with missingTabAt := some (after s.clock (3 * p)) }) :=
    modCtx_lawKept x i _
  unfold contextTab armPaster
  split
  · rename_i h
    dsimp only
    split
    · exact (hmark s).trans ((modOut_lawKept _ i _).trans (enterState_lawKept (.inr (by simp [h]; rfl)) rfl))
    · exact hmark s
  · exact (hmark s).trans (modOut_lawKept _ i _)
  · exact .refl s

theorem measureFresh_lawKept (s : State) (i : StandNo) (p : Nat) : LawKept s (s.measureFresh i p) :=
  (measureFresh_own s i p).lawKept_of_standing (by simp only [measureFresh, stand_modStand, if_true, Stand.standing])

theorem handOn_lawKept (s : State) (i : StandNo) (ch : Channel) (p : Nat) (b : Bool) : LawKept s (s.handOn i ch p b) := by
  have hfresh := measureFresh_lawKept s i p
  unfold handOn freshPeriod
  dsimp only
  repeat' split
  · exact runPeriod_lawKept s i p
  · exact hfresh.trans ((loopTab_lawKept _ i).trans (contextTab_lawKept _ i p))
  · exact hfresh.trans ((contextTab_lawKept _ i p).trans (loopTab_lawKept _ i))
  · exact .refl s

theorem changeHolds_lawKept (s : State) (i : StandNo) (ch : Channel) (b : Bool) : LawKept s (s.changeHolds i ch b) := by
  unfold changeHolds
  dsimp only
  repeat' split
  · exact .refl s
  · exact (updateChannel_lawKept s i ch _).trans (handOn_lawKept _ i ch _ b)
  · exact updateChannel_lawKept s i ch _
  · exact setChannel_lawKept s i ch _
  · exact .refl s

theorem freshStopped_lawKept (s : State) (i : StandNo) : LawKept s (s.freshStopped i) := by
  unfold freshStopped
  split
  case h_1 h | h_2 h => exact abort_lawKept (by rw [h]; rfl) .noTab
  case h_3 h =>
    exact enterRest_lawKept (modCtx_own s i _) (by rw [h]; rfl) (recordAndLock_modCtx s i _)
      (modCtx_lawKept s i _).ready
  case h_4 => exact .refl s

theorem channelStops_lawKept (s : State) (i : StandNo) (ch : Channel) : LawKept s (s.channelStops i ch) := by
  unfold channelStops
  dsimp only
  repeat' split
  · exact setChannel_lawKept s i _ _
  · exact (setChannel_lawKept s i _ _).trans ((modStand_lawKept _ i _).trans (freshStopped_lawKept _ i))
  · exact .refl s

theorem announceExcursion_lawKept (s : State) (i : StandNo) : LawKept s (s.announceExcursion i) := by
  unfold announceExcursion
  split
  case h_1 h | h_2 h | h_3 h => exact abort_lawKept (by rw [h]; rfl) .tension
  case h_4 | h_5 => exact modCtx_lawKept s i _
  case h_6 => exact .refl s

theorem convert_lawKept (s : State) (code : BitVec 12) : LawKept s (s.convert code) := by
  have hnext : LawKept s { s with scanNext := s.scanNext + 1 } := .of_standing rfl fun _ => rfl
  refine hnext.trans ?_
  unfold convert convertDancer
  dsimp only
  split
  · generalize (if insideBand _ code = true then 0 else _) = n
    split
    · exact (modStand_lawKept _ _ _).trans (announceExcursion_lawKept _ _)
    · exact modStand_lawKept _ _ _
  · exact modStand_lawKept _ _ _

/-! ### The timers of a splice and the guard -/

theorem setKnife_lawKept (s : State) (i : StandNo) : LawKept s (s.setKnife i) := by
  unfold setKnife
  dsimp only
  repeat' split
  · exact (modOut_lawKept s i _).trans ((modCtx_lawKept _ i _).trans (raise_lawKept _ i _))
  · exact (modOut_lawKept s i _).trans ((modCtx_lawKept _ i _).trans (raise_lawKept _ i _))
  · exact (modOut_lawKept s i _).trans (modCtx_lawKept _ i _)

theorem firePaster_lawKept {s : State} {i : StandNo} (h : (s.stand i).ctx.state = .fireSet) :
    LawKept s (s.firePaster i) := by
  unfold firePaster assertPaste takeFigures
  exact (enterState_lawKept (.inr (by rw [h]; rfl)) rfl).trans <| (modOut_lawKept _ i _).trans <|
    (modCtx_lawKept _ i _).trans <| (setKnife_lawKept _ i).trans <| (modCtx_lawKept _ i _).trans <|
    (modLoop_lawKept _ i _).trans <| (setPrewarn_lawKept _ i _).trans (raise_lawKept _ i _)

theorem pasterEnds_lawKept (s : State) (i : StandNo) : LawKept s (s.pasterEnds i) := by
  have hoff := modOut_lawKept s i fun o => { o with pasterAt := none }
  unfold pasterEnds
  dsimp only
  repeat' split
  · rename_i h
    exact hoff.trans (firePaster_lawKept (by rw [stand_modOut, if_pos rfl]; exact h))
  · exact hoff
  · exact .refl s

theorem fireKnife_lawKept {s : State} {i : StandNo} (h : (s.stand i).ctx.state = .pasting) :
    LawKept s (s.fireKnife i) := by
  have hknife (x : State) : LawKept x (x.assertKnife i) := by
    unfold assertKnife
    dsimp only
    split
    · exact .refl x
    · exact modOut_lawKept x i _
  unfold fireKnife startBrake
  exact (enterState_lawKept (.inr (by rw [h]; rfl)) rfl).trans <| (hknife _).trans <| (modOut_lawKept _ i _).trans <|
    (modCtx_lawKept _ i _).trans (queueDrive_txOnly _ i _).lawKept

theorem knifeEnds_lawKept (s : State) (i : StandNo) : LawKept s (s.knifeEnds i) := by
  have hoff := modOut_lawKept s i fun o => { o with knifeAt := none }
  unfold knifeEnds
  dsimp only
  repeat' split
  · rename_i h
    exact hoff.trans (fireKnife_lawKept (by rw [stand_modOut, if_pos rfl]; exact h))
  · exact hoff
  · exact .refl s

/-- The swap and the loss of the web change the reels of a splice in CUT, whose end then brings the context to rest (R22, R23,
R81). -/
theorem endSplice_lawKept {s z : State} {i : StandNo} (h : OwnChange i s z) (hn : (s.stand i).ctx.state.resting = false)
    (hr : z.recordAndLock = s.recordAndLock) (hq : s.ReadyOnHeadAlone → z.ReadyOnHeadAlone) :
    LawKept s (z.endSplice i) :=
  enterRest_lawKept (h.trans ((stopLoop_own z i).trans (forceOff_own _ i))) hn (by simp [hr])
    (((stopLoop_lawKept z i).trans (forceOff_lawKept _ i)).ready ∘ hq)

/-- The head leaves the queue (R22, R23). -/
theorem closeUp_readyOnHeadAlone (s : State) (i : StandNo) (f : Stand → Stand) (hf : ∀ x, (f x).queue = closeUp x.queue) :
    s.ReadyOnHeadAlone → (s.modStand i f).ReadyOnHeadAlone :=
  (modStand_own s i f).readyOnHeadAlone fun h => by
    rw [stand_modStand, if_pos rfl, hf]
    exact readyFirst_closeUp h

theorem endSpliced_lawKept {s : State} {i : StandNo} (h : (s.stand i).ctx.state = .cut) : LawKept s (s.endSpliced i) := by
  unfold endSpliced
  refine endSplice_lawKept ((writeOutcome_own s i _).trans ((raise_own _ i _).trans (swap_own _ i))) (by rw [h]; rfl)
    (by simp) fun hq => ?_
  exact (runoutCheck_lawKept _ i).ready (closeUp_readyOnHeadAlone _ i _ (fun _ => rfl)
    (((writeOutcome_lawKept s i _).trans (raise_lawKept _ i _)).ready hq))

theorem endBroken_lawKept {s : State} {i : StandNo} (h : (s.stand i).ctx.state = .cut) : LawKept s (s.endBroken i) := by
  unfold endBroken
  refine endSplice_lawKept ((writeOutcome_own s i _).trans ((raise_own _ i _).trans ((breakWeb_own _ i).trans
    (modCtx_own _ i _)))) (by rw [h]; rfl) (by simp) fun hq => ?_
  have hbroken := closeUp_readyOnHeadAlone _ i (fun x => { x with running := none, queue := closeUp x.queue, measured := false })
    (fun _ => rfl) (((writeOutcome_lawKept s i .breakSuspect).trans (raise_lawKept _ i .breakSuspect)).ready hq)
  exact (modCtx_own _ i _).readyOnHeadAlone (by rw [stand_modCtx, if_pos rfl]; exact id) hbroken

theorem confirmEnds_lawKept (s : State) (i : StandNo) : LawKept s (s.confirmEnds i) := by
  have hoff : LawKept s (s.modCtx i fun c => { c with confirmAt := none }) := modCtx_lawKept s i _
  have hstate : ((s.modCtx i fun c => { c with confirmAt := none }).stand i).ctx.state = (s.stand i).ctx.state := by
    rw [stand_modCtx, if_pos rfl]
  unfold confirmEnds
  dsimp only
  repeat' split
  · exact hoff.trans (endBroken_lawKept (hstate.trans ‹_›))
  · exact hoff.trans (endSpliced_lawKept (hstate.trans ‹_›))
  · exact hoff
  · exact .refl s

theorem missingTabEnds_lawKept (s : State) (i : StandNo) : LawKept s (s.missingTabEnds i) := by
  have hoff : LawKept s (s.modCtx i fun c => { c with missingTabAt := none }) :=
    modCtx_lawKept s i _
  unfold missingTabEnds
  dsimp only
  repeat' split
  · rename_i h
    refine hoff.trans (abort_lawKept ?_ .noTab)
    rw [stand_modCtx, if_pos rfl]
    dsimp only
    rcases h with h | h <;> rw [h] <;> rfl
  · exact hoff
  · exact .refl s

theorem stoppingEnds_lawKept (s : State) (i : StandNo) : LawKept s (s.stoppingEnds i) := by
  have hoff : LawKept s (s.modCtx i fun c => { c with stoppingAt := none }) :=
    modCtx_lawKept s i _
  unfold stoppingEnds
  dsimp only
  repeat' split
  · rename_i h
    exact enterRest_lawKept (modCtx_own s i _) (by rw [h]; rfl) (recordAndLock_modCtx s i _) hoff.ready
  · exact hoff
  · exact .refl s

theorem guardOpens_lawKept (s : State) (i : StandNo) : LawKept s (s.guardOpens i) := by
  have hlatch (x : State) : LawKept x (x.announceLatch i) := by
    unfold announceLatch
    split
    case h_1 h | h_2 h | h_3 h | h_4 h => exact abort_lawKept (by rw [h]; rfl) .interlock
    case h_5 h => exact failInterlock_lawKept h
    all_goals exact .refl x
  unfold guardOpens
  dsimp only
  repeat' split
  · exact .refl s
  · exact modOut_lawKept s i _
  · exact (modOut_lawKept s i _).trans ((forceOff_lawKept _ i).trans ((raise_lawKept _ i _).trans (hlatch _)))

/-! ### The part mode -/

/-- A change to RUN settles every context (R163). -/
theorem goRun_settled (s : State) (o : List StandNo) : AllSettled .run s (s.goRun o) := by
  obtain ⟨hsw, hst⟩ := forStands_own o (fun i x => x.settle i) (fun i x => settle_own x i)
    (fun _ a b => ∃ h : Horn, b = { a with ctx := settledCtx .run a, out := { a.out with horn := h } })
    { s with mode := .run } fun i x hx => by
      obtain ⟨h, hs⟩ := stand_settle x i i
      rw [if_pos rfl, hx.mode] at hs
      exact ⟨h, hs⟩
  exact {
    mode := hsw.mode
    stand := fun i => by
      obtain ⟨h, hs⟩ := hst i
      have hu : (s.goRun o).stand i =
        { s.stand i with ctx := settledCtx .run (s.stand i), out := { (s.stand i).out with horn := h } } := hs
      rw [hu]
    rest := forStands_keeps o _ (fun u => u = { s with mode := .run, stands := u.stands })
      (fun i x hx => by rw [settle_rest, hx]) _ rfl }

/-- What the change to HOLD comes to for a stand: a splice before fire is aborted, any other context settles (R89). -/
theorem stand_heldStep (s : State) (i : StandNo) :
    ((s.stand i).ctx.state.beforeFire = true → ∃ h : Horn, h.pattern = .off ∧
      ((s.abortBeforeFire i .hold).settle i).stand i = { s.stand i with
        queue := (s.stand i).queue.modifyHead fun r => { r with ready := false }
        ctx := { (s.stand i).ctx with
          state := .stopping
          cause := some .hold
          missingTabAt := none
          prewarn := false
          stoppingAt := some (s.clock + 15000000) }
        loop := { (s.stand i).loop with activity := .stopped }
        out := { (s.stand i).out with pasterAt := none, horn := h }
        events := latched (s.stand i).events [.aborted] }) ∧
    ((s.stand i).ctx.state.beforeFire = false → ∃ h : Horn, ((s.abortBeforeFire i .hold).settle i).stand i =
      { s.stand i with ctx := settledCtx s.mode (s.stand i), out := { (s.stand i).out with horn := h } }) := by
  refine ⟨fun hb => ?_, fun hb => ?_⟩
  · obtain ⟨h, hoff, hs⟩ := stand_abort s i .hold
    have hn : (s.abort i .hold).settle i = s.abort i .hold := by
      unfold settle
      rw [hs]
      rfl
    rw [abortBeforeFire_aborts hb, hn]
    exact ⟨h, hoff, hs⟩
  · obtain ⟨h, hs⟩ := stand_settle s i i
    rw [if_pos rfl] at hs
    rw [abortBeforeFire_elsewhere hb]
    exact ⟨h, hs⟩

/-- The change to HOLD, said once (R89). -/
theorem goHold_held (s : State) (o : List StandNo) : HeldFrom s (s.goHold o) := by
  obtain ⟨hsw, hst⟩ := forStands_own o (fun i x => (x.abortBeforeFire i .hold).settle i)
    (fun i x => (abortBeforeFire_own x i .hold).trans (settle_own _ i))
    (fun _ a b =>
      (a.ctx.state.beforeFire = true → ∃ h : Horn, h.pattern = .off ∧ b = { a with
        queue := a.queue.modifyHead fun r => { r with ready := false }
        ctx := { a.ctx with
          state := .stopping
          cause := some .hold
          missingTabAt := none
          prewarn := false
          stoppingAt := some (s.clock + 15000000) }
        loop := { a.loop with activity := .stopped }
        out := { a.out with pasterAt := none, horn := h }
        events := latched a.events [.aborted] }) ∧
      (a.ctx.state.beforeFire = false → ∃ h : Horn,
        b = { a with ctx := settledCtx .hold a, out := { a.out with horn := h } }))
    { s with mode := .hold } fun i x hx => by
      have hx' := stand_heldStep x i
      rw [hx.clock, hx.mode] at hx'
      exact hx'
  exact {
    mode := hsw.mode
    clock := hsw.clock
    trackers := hsw.trackers
    tables := ⟨hsw.grades, hsw.line⟩
    received := by
      have hp : (s.goHold o).port = _ := hsw.port
      rw [hp]
      exact ⟨rfl, rfl, rfl⟩
    aborted := fun i => (hst i).1
    settled := fun i hb => by
      obtain ⟨h, hs⟩ := (hst i).2 hb
      have hu : (s.goHold o).stand i =
        { s.stand i with ctx := settledCtx .hold (s.stand i), out := { (s.stand i).out with horn := h } } := hs
      rw [hu] }

/-- A stand whose lock is freed and whose auto mark is cleared (R90, R165). -/
def released (x : Stand) : Stand := { x with ctx := { x.ctx with auto := false }, lock := none }

/-- A change to CONFIG frees the locks, clears the auto marks and settles every context (R90, R165). -/
theorem goConfig_settled (s : State) (o : List StandNo) : (s.goConfig o).mode = .config ∧ ∀ i, ∃ h : Horn,
    (s.goConfig o).stand i = { released (s.stand i) with
      ctx := settledCtx .config (released (s.stand i))
      out := { (s.stand i).out with horn := h } } := by
  obtain ⟨hsw, hst⟩ := forStands_own o (fun i x => (x.modCtx i fun c => { c with auto := false }).settle i)
    (fun i x => changeSettled_own x i _)
    (fun _ a b => ∃ h : Horn, b = { a with
      ctx := settledCtx .config { a with ctx := { a.ctx with auto := false } }
      out := { a.out with horn := h } })
    ({ s with mode := .config }.mapStands fun _ x => { x with lock := none }) fun i x hx => by
      have hm : (x.modCtx i fun c => { c with auto := false }).mode = .config := by
        rw [mode_modCtx, hx.mode, mapStands_rest]
      obtain ⟨h, hs⟩ := stand_settle (x.modCtx i fun c => { c with auto := false }) i i
      rw [if_pos rfl, hm, stand_modCtx, if_pos rfl] at hs
      exact ⟨h, hs⟩
  refine ⟨hsw.mode.trans (by rw [mapStands_rest]), fun i => ?_⟩
  obtain ⟨h, hs⟩ := hst i
  rw [mapStands_stand] at hs
  exact ⟨h, hs⟩

theorem AllSettled.lawKept {m : Mode} {s u : State} (h : AllSettled m s u) (hm : m ≠ .config) : LawKept s u := by
  refine .of_each (fun i hl => ?_) fun i hq => ?_
  · rw [h.stand i, h.mode]
    exact Stand.lawful_settled _ (fun hn => hl.carried hn hm rfl rfl fun _ hr => hr) hl.enabled_or_auto
  · rw [h.stand i]
    exact hq

theorem HeldFrom.lawKept {s u : State} (h : HeldFrom s u) : LawKept s u := by
  have hhold : Mode.hold ≠ .config := by decide
  refine .of_each (fun i hl => ?_) fun i hq => ?_
  · rw [h.mode]
    cases hb : (s.stand i).ctx.state.beforeFire with
    | true =>
      obtain ⟨o, -, hs⟩ := h.aborted i hb
      rw [hs]
      exact Stand.lawful_of_stopping rfl (hl.enabled (not_resting_of_beforeFire hb)) hhold
    | false =>
      rw [h.settled i hb]
      exact Stand.lawful_settled _ (fun hn => hl.carried hn hhold rfl rfl fun _ hr => hr) hl.enabled_or_auto
  · cases hb : (s.stand i).ctx.state.beforeFire with
    | true =>
      obtain ⟨o, -, hs⟩ := h.aborted i hb
      rw [hs]
      exact readyFirst_modifyHead hq _
    | false =>
      rw [h.settled i hb]
      exact hq

/-- The part comes to CONFIG from resting contexts alone (R165). -/
theorem goConfig_lawKept {s : State} (h : ∀ i, (s.stand i).ctx.state.resting = true) (o : List StandNo) :
    LawKept s (s.goConfig o) := by
  obtain ⟨hm, hst⟩ := goConfig_settled s o
  refine .of_each (fun i _ => ?_) fun i hq => ?_
  · obtain ⟨horn, hs⟩ := hst i
    rw [hs, hm]
    have hr : (released (s.stand i)).ctx.state.resting = true := h i
    exact Stand.lawful_settled (x := released (s.stand i)) _ (fun hn => by rw [hr] at hn; cases hn) (.inr rfl)
  · obtain ⟨horn, hs⟩ := hst i
    rw [hs]
    exact hq

theorem setModeRun_lawKept (s : State) (o : List StandNo) : LawKept s (s.setModeRun o).state := by
  have hrun : LawKept s (s.goRun o) := (goRun_settled s o).lawKept (by decide)
  unfold setModeRun
  repeat' split
  · exact hrun
  · exact .refl s
  · exact hrun
  · exact .refl s

theorem setModeHold_lawKept (s : State) (o : List StandNo) : LawKept s (s.setModeHold o).state := by
  unfold setModeHold
  split
  · exact (goHold_held s o).lawKept
  · exact .refl s
  · exact .refl s

theorem setModeConfig_lawKept (s : State) (o : List StandNo) : LawKept s (s.setModeConfig o).state := by
  have hconfig (h : (allStands.all fun i => (s.stand i).ctx.state.resting) = true) : LawKept s (s.goConfig o) :=
    goConfig_lawKept (fun i => List.all_eq_true.1 h i (mem_allStands i)) o
  unfold setModeConfig
  repeat' split
  · exact .refl s
  · exact hconfig ‹_›
  · exact .refl s
  · exact hconfig ‹_›
  · exact .refl s

/-! ### Requests of one stand -/

theorem autoOn_lawKept (s : State) (i : StandNo) : LawKept s (s.autoOn i).state := by
  unfold autoOn
  split
  · exact .refl s
  · exact autoChange_lawKept s i true fun _ => ‹_›

theorem autoOff_lawKept (s : State) (i : StandNo) : LawKept s (s.autoOff i).state := by
  unfold autoOff
  split
  · exact .refl s
  · exact autoChange_lawKept s i false fun h => by cases h

theorem spliceNow_lawKept (s : State) (i : StandNo) : LawKept s (s.spliceNow i).state := by
  have hearly (x : State) : LawKept x (x.setEarly i) := modCtx_lawKept x i _
  unfold spliceNow
  split
  case h_1 h =>
    split
    · exact (enterRunUp_lawKept h).trans (hearly _)
    · exact .refl s
  case h_2 => exact hearly s
  case h_3 h => exact (hearly s).trans (enterFireWait_lawKept (by simp [setEarly, h]; rfl))
  all_goals exact .refl s

theorem abortOrder_lawKept (s : State) (i : StandNo) : LawKept s (s.abortOrder i).state := by
  unfold abortOrder
  split
  case h_1 h | h_2 h | h_3 h | h_4 h => exact abort_lawKept (by rw [h]; rfl) .order
  all_goals exact .refl s

theorem manualOn_lawKept (s : State) (i : StandNo) : LawKept s (s.manualOn i).state := by
  unfold manualOn
  split
  case h_1 | h_2 =>
    dsimp only [grant]
    split
    · exact .refl s
    · exact modLoop_lawKept s i _
  all_goals exact .refl s

theorem manualOff_lawKept (s : State) (i : StandNo) : LawKept s (s.manualOff i).state := by
  unfold manualOff
  split
  case h_1 | h_2 =>
    dsimp only [grant]
    split
    · exact modLoop_lawKept s i _
    · exact .refl s
  all_goals exact .refl s

theorem addReel_lawKept (s : State) (i : StandNo) {r : ReelRecord} (hr : r.ready = false) :
    LawKept s (s.addReel i r).state := by
  unfold addReel
  repeat' split
  · exact .refl s
  · exact .refl s
  · refine reelChange_lawKept s i _ ⟨rfl, rfl⟩ (fun _ ⟨a, ha, hready⟩ => ⟨a, ?_, hready⟩) fun hq =>
      readyFirst_append hq hr
    rw [List.head?_append, ha]
    rfl
  all_goals exact .refl s

/-- A splice keeps its head: DROP REEL refuses it from RUNUP through STOPPING (R16). -/
theorem dropReel_lawKept (s : State) (i : StandNo) (id : ReelId) : LawKept s (s.dropReel i id).state := by
  unfold dropReel
  split
  · exact .refl s
  · rename_i hheld
    refine reelChange_lawKept s i _ ⟨rfl, rfl⟩ (fun hsp ⟨a, ha, hready⟩ => ⟨a, ?_, hready⟩) fun hq =>
      readyFirst_withoutReel id hq
    obtain ⟨rest, hq⟩ := List.head?_eq_some_iff.1 ha
    have hne : a.id ≠ id := fun e => hheld (by simp [head, ha, e, headHeld, hsp])
    rw [hq, withoutReel, if_neg hne]
    rfl

theorem markReady_lawKept (s : State) (i : StandNo) (id : ReelId) : LawKept s (s.markReady i id).state := by
  unfold markReady
  repeat' split
  · refine reelChange_lawKept s i _ ⟨rfl, rfl⟩ (fun _ ⟨a, ha, _⟩ => ⟨{ a with ready := true }, ?_, rfl⟩) fun hq =>
      readyFirst_modifyHead hq _
    obtain ⟨rest, hq⟩ := List.head?_eq_some_iff.1 ha
    rw [hq]
    rfl
  · exact .refl s
  · exact .refl s

/-- A runout check leaves a resting context as it is (R87). -/
theorem ctx_runoutCheck_of_resting {s : State} {i : StandNo} (h : (s.stand i).ctx.state.resting = true) :
    ((s.runoutCheck i).stand i).ctx = (s.stand i).ctx := by
  by_cases hd : s.RunoutDue i
  · exact ctx_runoutCheck hd (beforeFire_of_resting h)
  · rw [runoutCheck_of_not_due hd]

theorem installRunning_lawKept {s : State} {i : StandNo} (h : (s.stand i).ctx.state.resting = true) (r : RunningReel)
    (d : Nat) : LawKept s (s.installRunning i r d) := by
  have hy : (s.modStand i fun x => installed x r d).stand i = installed (s.stand i) r d := by rw [stand_modStand, if_pos rfl]
  have hown : OwnChange i s (s.modStand i fun x => installed x r d) := modStand_own s i _
  have hrec : (s.modStand i fun x => installed x r d).recordAndLock = s.recordAndLock :=
    recordAndLock_modStand s i _ fun _ => ⟨rfl, rfl⟩
  have hi : s.installRunning i r d = ((s.modStand i fun x => installed x r d).runoutCheck i).settle i := rfl
  rw [hi]
  generalize (s.modStand i fun x => installed x r d) = y at hy hown hrec
  have hctx : ((y.runoutCheck i).stand i).ctx = (s.stand i).ctx := by
    rw [ctx_runoutCheck_of_resting (by rw [hy]; exact h), hy, installed]
  have hrecord : ((y.runoutCheck i).stand i).record = (s.stand i).record :=
    congrArg Prod.fst (congrFun ((recordAndLock_runoutCheck y i).trans hrec) i)
  refine settle_lawKept (hown.trans (runoutCheck_own y i)) (fun hl => ?_)
    ((runoutCheck_lawKept y i).ready ∘ hown.readyOnHeadAlone (by rw [hy]; exact id))
  rw [hctx, hrecord]
  exact ⟨fun hn => absurd h (by rw [hn]; decide), hl.enabled_or_auto⟩

theorem setRunning_lawKept (s : State) (i : StandNo) (r : RunningReel) (d : Option Nat) :
    LawKept s (s.setRunning i r d).state := by
  unfold setRunning
  repeat' split
  · exact .refl s
  · exact .refl s
  · exact installRunning_lawKept ‹_› r _
  all_goals exact .refl s

theorem clearRunning_lawKept (s : State) (i : StandNo) : LawKept s (s.clearRunning i).state := by
  unfold clearRunning
  split
  · exact reelChange_lawKept s i _ ⟨rfl, rfl⟩ (fun _ hr => hr) id
  · exact .refl s

/-- A change of the enabled field settles the context, out of use with its auto mark cleared (R8, R62). -/
theorem lawful_recordedCtx {m : Mode} {x y : Stand} (hl : x.Lawful m) (hr : x.ctx.state.resting = true)
    (hc : y.ctx = x.ctx) (hrun : y.running = x.running) (hq : y.queue = x.queue) (o : Output) :
    ({ y with ctx := recordedCtx m x.record.enabled y, out := o } : Stand).Lawful m := by
  have hn (c : Prop) : y.ctx.state.resting = false → c := fun h => by rw [hc, hr] at h; cases h
  unfold recordedCtx
  split
  · rename_i he
    exact hl.congr (by simp only [Stand.standing, hc, he, hrun, hq])
  · split
    · exact Stand.lawful_settled _ (hn _) (.inl ‹_›)
    · exact Stand.lawful_settled (x := { y with ctx := { y.ctx with auto := false, prewarn := false } }) _ (hn _) (.inr rfl)

theorem replaceRecord_lawKept {s : State} {i : StandNo} (h : (s.stand i).ctx.state.resting = true) (r : StandRecord) :
    LawKept s (s.replaceRecord i r) := by
  obtain ⟨hrest, horn, -, hst⟩ := replaceRecord_spec s i r
  have hm : (s.replaceRecord i r).mode = s.mode := by rw [hrest, withRecord_rest]
  have hw : (s.withRecord i r).stand i = _ := stand_withRecord s i i r
  rw [if_pos rfl] at hw
  refine .of_each (fun j => ?_) fun j => ?_ <;> rw [hst j] <;> by_cases e : i = j
  · rw [if_pos e, hm]
    subst e
    exact fun hl => lawful_recordedCtx hl h (by rw [hw]) (by rw [hw]) (by rw [hw]) _
  · rw [if_neg e, hm]
    exact id
  · rw [if_pos e]
    subst e
    rw [hw]
    exact id
  · rw [if_neg e]
    exact id

/-! ### The answers to requests -/

theorem lockedOrder_lawKept (code : Nat) (ok : State → Bool) (act : State → StandNo → Answer)
    (h : ∀ x i, LawKept x (act x i).state) (f : Frame) (s : State) : LawKept s (lockedOrder code ok act f s).state :=
  orderSteps_state (.refl s) (needStand_state (.refl s) fun i => needLock_state (.refl s) (h s i))

theorem answerAbort_lawKept (f : Frame) (s : State) : LawKept s (answerAbort f s).state :=
  orderSteps_state (.refl s) (needStand_state (.refl s) fun i => abortOrder_lawKept s i)

theorem answerPutGrade_lawKept (f : Frame) (s : State) : LawKept s (answerPutGrade f s).state := by
  refine needLength_state (.refl s) ?_
  unfold putGrade
  repeat' split
  · exact .refl s
  · exact .refl s
  · exact .of_standing rfl fun _ => rfl
  · exact .refl s

theorem answerPutStand_lawKept (f : Frame) (s : State) : LawKept s (answerPutStand f s).state := by
  refine needLength_state (.refl s) (needStand_state (.refl s) fun i => ?_)
  unfold putStand
  repeat' split
  · exact .refl s
  · exact replaceRecord_lawKept ‹_› _
  · exact .refl s
  · exact .refl s

theorem answerPutLine_lawKept (f : Frame) (s : State) : LawKept s (answerPutLine f s).state := by
  refine needLength_state (.refl s) ?_
  rw [putLine_eq]
  repeat' split
  · dsimp only [grant]
    rw [withLine_rest]
    exact .of_standing rfl fun _ => rfl
  · exact .refl s
  · exact .refl s

theorem answerSetGroups_lawKept (f : Frame) (s : State) : LawKept s (answerSetGroups f s).state := by
  refine needLength_state (.refl s) ?_
  unfold setGroups
  repeat' split
  · dsimp only [grant]
    exact modPort_lawKept s _
  · exact .refl s
  · exact .refl s

theorem answerAddReel_lawKept (f : Frame) (s : State) : LawKept s (answerAddReel f s).state := by
  refine needLength_state (.refl s) (needStand_state (.refl s) fun i => needLock_state (.refl s) ?_)
  dsimp only
  repeat' split
  · exact .refl s
  · exact addReel_lawKept s i rfl
  · exact .refl s

theorem answerDropReel_lawKept (f : Frame) (s : State) : LawKept s (answerDropReel f s).state := by
  refine needLength_state (.refl s) ?_
  dsimp only
  repeat' split
  · exact .refl s
  · exact .refl s
  · exact needLock_state (.refl s) (dropReel_lawKept s _ _)

theorem answerMarkReady_lawKept (f : Frame) (s : State) : LawKept s (answerMarkReady f s).state :=
  needLength_state (.refl s) (needStand_state (.refl s) fun i => needLock_state (.refl s) (markReady_lawKept s i _))

theorem answerSetRunning_lawKept (f : Frame) (s : State) : LawKept s (answerSetRunning f s).state := by
  refine needLength_state (.refl s) (needStand_state (.refl s) fun i => needLock_state (.refl s) ?_)
  repeat' split
  · exact clearRunning_lawKept s i
  · exact .refl s
  · exact setRunning_lawKept s i _ _

theorem answerTakeControl_lawKept (f : Frame) (s : State) : LawKept s (answerTakeControl f s).state := by
  unfold answerTakeControl
  split
  · exact .refl s
  · split
    · exact .refl s
    · unfold takeControl
      split
      · dsimp only [controlAnswer]
        exact modStand_lawKept s _ _
      · exact .refl s

theorem answerGiveControl_lawKept (f : Frame) (s : State) : LawKept s (answerGiveControl f s).state := by
  unfold answerGiveControl
  split
  · exact .refl s
  · split
    · exact .refl s
    · unfold giveControl
      split
      · exact .refl s
      · split
        · dsimp only [controlAnswer]
          exact modStand_lawKept s _ _
        · exact .refl s

theorem answerClearInterlock_lawKept (f : Frame) (s : State) : LawKept s (answerClearInterlock f s).state := by
  refine needLength_state (.refl s) ?_
  split
  · refine needStand_state (.refl s) fun i => ?_
    unfold clearInterlock
    dsimp only
    repeat' split
    · exact .refl s
    · dsimp only [grant]
      exact modOut_lawKept s i _
    · exact .refl s
  · exact .refl s

theorem answerClearEvents_lawKept (f : Frame) (s : State) : LawKept s (answerClearEvents f s).state := by
  refine needLength_state (.refl s) ?_
  split
  · refine needLength_state (.refl s) (needStand_state (.refl s) fun i => ?_)
    unfold clearMarks
    split
    · dsimp only [grant]
      exact modStand_lawKept s i _
    · exact .refl s
  · exact .refl s

/-- RESTART, taken in CONFIG, keeps a context's state and clears its auto mark (R171, R60). -/
theorem answerRestart_lawKept (f : Frame) (s : State) : LawKept s (answerRestart f s).state := by
  unfold answerRestart
  split
  · rename_i hm
    dsimp only [grant]
    have hm' : s.restarted.mode = s.mode := by rw [restarted_rest]
    refine .of_each (fun i hl => ?_) fun i hq => ?_
    · rw [restarted_stand, hm', hm]
      have hrest : (s.stand i).ctx.state.resting = true := by rcases hl.config hm with h | h <;> rw [h] <;> rfl
      rw [hm] at hl
      exact Stand.lawful_of_resting (x := (s.stand i).restart)
        ((hl.rest hrest).trans (by simp [restingFor, Stand.restart])) (.inr rfl)
    · rw [restarted_stand]
      exact hq
  · exact .refl s

/-! ### The request handler -/

theorem returnSlot_lawKept (s : State) : LawKept s s.returnSlot := by
  unfold returnSlot
  split
  · exact (modPort_lawKept s _).trans (offer_txOnly _).lawKept
  · exact .refl s

theorem takeFrame_lawKept (s : State) (f : Frame) : LawKept s (s.takeFrame f) :=
  .of_standing (by rw [takeFrame, refreshLocks, mapStands_rest]; rfl) fun i => by
    rw [takeFrame, refreshLocks, mapStands_stand]; rfl

/-- A request row keeps the laws when its answer does. -/
theorem handle_lawKept (s : State) (t : Time) (takes : Frame → Bool) (ask : Bool) {body : Frame → State → Answer}
    (h : ∀ f x, LawKept x (body f x).state) : LawKept s ((s.setClock t).handle takes ask body) := by
  have hpop (x : State) : LawKept x x.popFrame.returnSlot := (modPort_lawKept x _).trans (returnSlot_lawKept _)
  refine (setClock_lawKept s t).trans ?_
  unfold handle
  repeat' split
  · exact .refl _
  · exact (takeFrame_lawKept _ _).trans ((h _ _).trans (.of_standing rfl fun _ => rfl))
  · exact .refl _
  · exact hpop _
  · exact (hpop _).trans (h _ _)
  · exact .refl _

/-- A request row that only reads keeps the laws. -/
theorem handle_lawKept_of_reads (s : State) (t : Time) (takes : Frame → Bool) (ask : Bool)
    {body : Frame → State → Answer} (h : ∀ f x, (body f x).state = x) :
    LawKept s ((s.setClock t).handle takes ask body) :=
  handle_lawKept s t takes ask fun f x => by rw [h]; exact .refl x

theorem discardPartVerb_lawKept (s : State) : LawKept s s.discardPartVerb := by
  unfold discardPartVerb
  repeat' split
  · exact .refl s
  · exact (modPort_lawKept s _).trans (returnSlot_lawKept _)
  · exact .refl s

/-! ### Line samples and tracker timers -/

theorem tellStands_lawKept (s : State) (k : SlotNo) (o : List StandNo) (f : StandNo → State → State)
    (h : ∀ i x, LawKept x (f i x)) : LawKept s (s.tellStands k o f) :=
  forStands_lawKept o _ (fun i x => by
    split
    · exact h i x
    · exact .refl x) s

theorem coastingEnds_lawKept (s : State) (k : SlotNo) (o : List StandNo) : LawKept s (s.coastingEnds k o) := by
  unfold coastingEnds
  dsimp only
  repeat' split
  · exact (setTracker_lawKept s k _).trans (tellStands_lawKept _ k o _ fun i x => leaveFireSet_lawKept x i)
  · exact setTracker_lawKept s k _
  · exact .refl s

theorem lostEnds_lawKept (s : State) (k : SlotNo) (o : List StandNo) : LawKept s (s.lostEnds k o) := by
  have htell (x : State) := tellStands_lawKept x k o (fun i s => (s.raise i .trackLost).abortBeforeFire i .trackLost)
    fun i y => (raise_lawKept y i .trackLost).trans (abortBeforeFire_lawKept _ i .trackLost)
  unfold lostEnds
  dsimp only
  split
  · split
    case h_1 | h_2 | h_3 => exact (setTracker_lawKept s k _).trans (htell _)
    all_goals exact setTracker_lawKept s k _
  · exact .refl s

theorem windowEnds_lawKept (s : State) (k : SlotNo) (o : List StandNo) : LawKept s (s.windowEnds k o) := by
  unfold windowEnds
  dsimp only
  repeat' split
  · exact (setTracker_lawKept s k _).trans (tellStands_lawKept _ k o _ fun i x => raise_lawKept x i _)
  · exact setTracker_lawKept s k _
  · exact .refl s

theorem contextHears_lawKept (s : State) (i : StandNo) (e : SampleEvent) : LawKept s (s.contextHears i e) := by
  unfold contextHears
  split
  · split
    · exact predict_lawKept ‹_›
    · split
      · exact abortBeforeFire_lawKept s i _
      · exact .refl s
  · exact leaveFireSet_lawKept s i
  all_goals exact .refl s

theorem hearMatter_lawKept (b : State) (p : List Byte) (m : Matter) (s : State) : LawKept s (hearMatter b p m s) := by
  unfold hearMatter
  dsimp only
  split
  · refine (loopHears_own s m.stand _ _).lawKept_of_standing ?_
    rw [stand_loopHears]
    rfl
  · exact contextHears_lawKept s _ _

theorem takeSample_lawKept (s : State) (p : List Byte) (o : List Matter) : LawKept s (s.takeSample p o) := by
  refine (mapTrackers_lawKept s fun k _ => (s.sampleSlot p k).1).trans ?_
  unfold takeSample
  dsimp only
  generalize (s.mapTrackers fun k _ => (s.sampleSlot p k).1) = x
  induction wholeOrder allMatters o generalizing x with
  | nil => exact .refl x
  | cons m l ih => exact (hearMatter_lawKept s p m x).trans (ih _)

/-! ### The port -/

theorem arrivalEnds_lawKept (s : State) (v : Byte) (p : List Byte) (c : Byte) (handOn : Header → State → State)
    (h : ∀ a x, LawKept x (handOn a x)) : LawKept s (s.arrivalEnds v p c handOn) := by
  unfold arrivalEnds
  repeat' split
  · exact (modPort_lawKept s _).trans ((modPort_lawKept _ _).trans (h _ _))
  · exact modPort_lawKept s _
  all_goals exact .refl s

theorem handSample_lawKept (p : List Byte) (o : List Matter) (a : Header) (s : State) :
    LawKept s (handSample p o a s) := by
  unfold handSample
  split
  · exact takeSample_lawKept s p o
  · exact .refl s

theorem handHold_lawKept (o : List StandNo) (a : Header) (s : State) : LawKept s (handHold o a s) := by
  unfold handHold
  split
  · exact (goHold_held s o).lawKept
  · exact .refl s
  · exact .refl s

theorem requestEnds_lawKept (s : State) (p : List Byte) (c : Byte) : LawKept s (s.requestEnds p c) := by
  unfold requestEnds
  repeat' split
  all_goals exact .of_standing rfl fun _ => rfl

theorem headerEnds_lawKept (s : State) (h : Header) (c : Byte) : LawKept s (s.headerEnds h c) := by
  unfold headerEnds
  split
  · exact modPort_lawKept s _
  · exact .refl s

theorem abandonFrame_lawKept (s : State) (l : List Bool) : LawKept s (s.abandonFrame l) := by
  unfold abandonFrame
  dsimp only
  split
  · exact .refl s
  · exact modPort_lawKept s _

theorem becomesIdle_lawKept (s : State) (l : List Bool) : LawKept s (s.becomesIdle l) := by
  unfold becomesIdle
  dsimp only
  split
  · exact .refl s
  · exact modPort_lawKept s _

theorem startsReading_lawKept (s : State) : LawKept s s.startsReading := by
  unfold startsReading
  split
  · exact modPort_lawKept s _
  · exact .refl s

theorem entersStuck_lawKept (s : State) (l : List Bool) (o : List StandNo) : LawKept s (s.entersStuck l o) := by
  unfold entersStuck
  dsimp only
  split
  · exact .refl s
  · exact (modPort_lawKept s _).trans (forStands_lawKept o _ (fun i x => abortBeforeFire_lawKept x i _) _)

theorem beginsFrame_lawKept (s : State) (r : List Contestant) : LawKept s (s.beginsFrame r) := by
  unfold beginsFrame
  repeat' split
  · exact .refl s
  · exact modPort_lawKept s _
  · exact .refl s

theorem losesContest_lawKept (s : State) : LawKept s s.losesContest := by
  unfold losesContest
  repeat' split
  · exact .refl s
  · exact .refl s
  · exact (modPort_lawKept s _).trans (entryLoses_txOnly _).lawKept

theorem handOutcome_lawKept (s : State) (e : TxEntry) (r : TxOutcome) : LawKept s (s.handOutcome e r) := by
  have hreference (i : StandNo) : LawKept s (s.referenceOutcome i r) := by
    unfold referenceOutcome
    have hcount (n : Nat) : LawKept s (s.modLoop i fun l => { l with noAckRun := n }) := modLoop_lawKept s i _
    split
    case h_1 => exact hcount 0
    all_goals
      dsimp only
      split
      · exact (hcount _).trans ((raise_lawKept _ i _).trans (abortBeforeFire_lawKept _ i _))
      · exact hcount _
  have hdrive (i : StandNo) : LawKept s (s.driveOutcome i r) := by
    unfold driveOutcome
    split
    · exact .refl s
    all_goals exact raise_lawKept s i _
  unfold handOutcome noticeOutcome
  repeat' split
  · exact hreference _
  · exact .refl s
  · exact hdrive _
  · exact hdrive _
  all_goals exact .of_standing rfl fun _ => rfl

theorem frameEnds_lawKept (s : State) (e : LineEnd) : LawKept s (s.frameEnds e) := by
  have hends (x : State) (r : TxOutcome) : LawKept x (x.entryEnds r) := by
    unfold entryEnds
    split
    · exact .refl x
    · exact (handOutcome_lawKept x _ r).trans ((modPort_lawKept _ _).trans (offer_txOnly _).lawKept)
  unfold frameEnds
  repeat' split
  · exact .refl s
  · exact (modPort_lawKept s _).trans (hends _ _)
  · exact .refl s

/-- Power-on leaves every context in OFF and every queue empty (R155). -/
theorem poweredOn_lawKept (s : State) (pins : Pins) : LawKept s (s.poweredOn pins) :=
  .of_each (fun i _ => by
    rw [stand_poweredOn]
    exact Stand.lawful_of_resting rfl (.inr rfl)) fun i _ => by
    rw [stand_poweredOn]
    exact fun _ h => by cases h

/-! ### Every command -/

theorem timed_lawKept {s u : State} (t : Time) (h : LawKept (s.setClock t) u) : LawKept s u := (setClock_lawKept s t).trans h

/-- Every command keeps the contexts lawful and the ready mark on the head alone. -/
theorem exec_lawKept (c : Instr) (s : State) : ∃ u, exec c s = .next u ∧ LawKept s u := by
  cases c with
  | powerOn pins => exact ⟨_, rfl, poweredOn_lawKept s pins⟩
  | askStatus t => exact ⟨_, rfl, handle_lawKept_of_reads s t _ _ fun _ _ => rfl⟩
  | askStand t => exact ⟨_, rfl, handle_lawKept_of_reads s t _ _ answerAskStand_state⟩
  | askGrade t => exact ⟨_, rfl, handle_lawKept_of_reads s t _ _ answerAskGrade_state⟩
  | askQueue t => exact ⟨_, rfl, handle_lawKept_of_reads s t _ _ answerAskQueue_state⟩
  | askLog t => exact ⟨_, rfl, handle_lawKept_of_reads s t _ _ answerAskLog_state⟩
  | askLine t => exact ⟨_, rfl, handle_lawKept_of_reads s t _ _ fun _ _ => rfl⟩
  | putGrade t => exact ⟨_, rfl, handle_lawKept s t _ _ answerPutGrade_lawKept⟩
  | putStand t => exact ⟨_, rfl, handle_lawKept s t _ _ answerPutStand_lawKept⟩
  | putLine t => exact ⟨_, rfl, handle_lawKept s t _ _ answerPutLine_lawKept⟩
  | setGroups t => exact ⟨_, rfl, handle_lawKept s t _ _ answerSetGroups_lawKept⟩
  | addReel t => exact ⟨_, rfl, handle_lawKept s t _ _ answerAddReel_lawKept⟩
  | dropReel t => exact ⟨_, rfl, handle_lawKept s t _ _ answerDropReel_lawKept⟩
  | markReady t => exact ⟨_, rfl, handle_lawKept s t _ _ answerMarkReady_lawKept⟩
  | setRunning t => exact ⟨_, rfl, handle_lawKept s t _ _ answerSetRunning_lawKept⟩
  | setModeRun t o => exact ⟨_, rfl, handle_lawKept s t _ _ fun f x => setMode_state (.refl x) (setModeRun_lawKept x o)⟩
  | setModeHold t o => exact ⟨_, rfl, handle_lawKept s t _ _ fun f x => setMode_state (.refl x) (setModeHold_lawKept x o)⟩
  | setModeConfig t o =>
    exact ⟨_, rfl, handle_lawKept s t _ _ fun f x => setMode_state (.refl x) (setModeConfig_lawKept x o)⟩
  | standOrderAutoOn t => exact ⟨_, rfl, handle_lawKept s t _ _ (lockedOrder_lawKept 1 _ _ autoOn_lawKept)⟩
  | standOrderAutoOff t => exact ⟨_, rfl, handle_lawKept s t _ _ (lockedOrder_lawKept 2 _ _ autoOff_lawKept)⟩
  | standOrderSpliceNow t => exact ⟨_, rfl, handle_lawKept s t _ _ (lockedOrder_lawKept 3 _ _ spliceNow_lawKept)⟩
  | standOrderAbort t => exact ⟨_, rfl, handle_lawKept s t _ _ answerAbort_lawKept⟩
  | standOrderManualTrackOn t => exact ⟨_, rfl, handle_lawKept s t _ _ (lockedOrder_lawKept 5 _ _ manualOn_lawKept)⟩
  | standOrderManualTrackOff t => exact ⟨_, rfl, handle_lawKept s t _ _ (lockedOrder_lawKept 6 _ _ manualOff_lawKept)⟩
  | takeControl t => exact ⟨_, rfl, handle_lawKept s t _ _ answerTakeControl_lawKept⟩
  | giveControl t => exact ⟨_, rfl, handle_lawKept s t _ _ answerGiveControl_lawKept⟩
  | clearLatchInterlock t => exact ⟨_, rfl, handle_lawKept s t _ _ answerClearInterlock_lawKept⟩
  | clearLatchEvents t => exact ⟨_, rfl, handle_lawKept s t _ _ answerClearEvents_lawKept⟩
  | restart t => exact ⟨_, rfl, handle_lawKept s t _ _ answerRestart_lawKept⟩
  | unknownVerb t => exact ⟨_, rfl, handle_lawKept_of_reads s t _ _ fun _ _ => rfl⟩
  | partVerbDiscarded t => exact ⟨_, rfl, timed_lawKept t (discardPartVerb_lawKept _)⟩
  | lineHold t p k o => exact ⟨_, rfl, timed_lawKept t (arrivalEnds_lawKept _ _ p k _ (handHold_lawKept o))⟩
  | lineSample t p k o => exact ⟨_, rfl, timed_lawKept t (arrivalEnds_lawKept _ _ p k _ (handSample_lawKept p o))⟩
  | coastingExpiry t k o => exact ⟨_, rfl, timed_lawKept t (coastingEnds_lawKept _ k o)⟩
  | lostExpiry t k o => exact ⟨_, rfl, timed_lawKept t (lostEnds_lawKept _ k o)⟩
  | windowClose t k o => exact ⟨_, rfl, timed_lawKept t (windowEnds_lawKept _ k o)⟩
  | pulseInputChange t i ch b => exact ⟨_, rfl, timed_lawKept t (inputChanges_lawKept _ i ch b)⟩
  | changeAccepted t i ch b => exact ⟨_, rfl, timed_lawKept t (changeHolds_lawKept _ i ch b)⟩
  | stoppedTimerExpiry t i ch => exact ⟨_, rfl, timed_lawKept t (channelStops_lawKept _ i ch)⟩
  | conversionCompletion t code => exact ⟨_, rfl, timed_lawKept t (convert_lawKept _ code)⟩
  | guardOpen t i => exact ⟨_, rfl, timed_lawKept t (guardOpens_lawKept _ i)⟩
  | guardSafe t i => exact ⟨_, rfl, timed_lawKept t (modOut_lawKept _ i _)⟩
  | missingTabExpiry t i => exact ⟨_, rfl, timed_lawKept t (missingTabEnds_lawKept _ i)⟩
  | pasterTimerExpiry t i => exact ⟨_, rfl, timed_lawKept t (pasterEnds_lawKept _ i)⟩
  | knifeTimerExpiry t i => exact ⟨_, rfl, timed_lawKept t (knifeEnds_lawKept _ i)⟩
  | confirmTimerExpiry t i => exact ⟨_, rfl, timed_lawKept t (confirmEnds_lawKept _ i)⟩
  | stoppingTimerExpiry t i => exact ⟨_, rfl, timed_lawKept t (stoppingEnds_lawKept _ i)⟩
  | pasteEndExpiry t i => exact ⟨_, rfl, timed_lawKept t (modOut_lawKept _ i _)⟩
  | knifeEndExpiry t i => exact ⟨_, rfl, timed_lawKept t (modOut_lawKept _ i _)⟩
  | brakeDelayExpiry t i => exact ⟨_, rfl, timed_lawKept t (modOut_lawKept _ i _)⟩
  | brakeHoldExpiry t i => exact ⟨_, rfl, timed_lawKept t (modOut_lawKept _ i _)⟩
  | hornHalfPeriod t i => exact ⟨_, rfl, timed_lawKept t (modOut_lawKept _ i _)⟩
  | prewarnPhase t i => exact ⟨_, rfl, timed_lawKept t (modOut_lawKept _ i _)⟩
  | lockExpiry t i => exact ⟨_, rfl, timed_lawKept t (modStand_lawKept _ i _)⟩
  | requestFrame t p k => exact ⟨_, rfl, timed_lawKept t (requestEnds_lawKept _ p k)⟩
  | transmitBegin m => exact ⟨_, rfl, timed_lawKept m.t (beginsFrame_lawKept _ m.rivals)⟩
  | lostArbitration t => exact ⟨_, rfl, timed_lawKept t (losesContest_lawKept _)⟩
  | transmitOutcome t e => exact ⟨_, rfl, timed_lawKept t (frameEnds_lawKept _ e)⟩
  | busIdle m => exact ⟨_, rfl, timed_lawKept m.t (becomesIdle_lawKept _ m.line)⟩
  | stuck m o => exact ⟨_, rfl, timed_lawKept m.t (entersStuck_lawKept _ m.line o)⟩
  | startMarkRead t => exact ⟨_, rfl, timed_lawKept t (startsReading_lawKept _)⟩
  | headerCheckEnd t h k => exact ⟨_, rfl, timed_lawKept t (headerEnds_lawKept _ h k)⟩
  | receptionAbandoned m => exact ⟨_, rfl, timed_lawKept m.t (abandonFrame_lawKept _ m.line)⟩

/-- Every step keeps them; the queue of waiting commands is none of them. -/
theorem step_lawKept {s u : State} (h : step s = .next u) : LawKept s u := by
  unfold step at h
  split at h
  · cases h
    exact .refl s
  · rename_i c rest _
    obtain ⟨v, hv, hk⟩ := exec_lawKept c { s with pending := rest }
    rw [hv] at h
    cases h
    exact ⟨hk.contexts, hk.ready⟩

end State

end Machine

end Sys2Proof

open Sys2Proof.Machine

/-- Settles O58: each move of a context, each settling and each change of a queue keeps the laws, and a command is made of
these. -/
theorem contextsKeptLawful : Obligations.ContextsKeptLawful := fun _ _ h =>
  have k := State.step_lawKept h
  ⟨k.contexts, k.ready⟩

end

section
/-! SUPPORT. The requests that bring the paster into HOLD (O17). -/

namespace Sys2Proof

namespace Machine

namespace State

/-- A SET MODE that carries the code of HOLD is answered by the mode's own order. -/
theorem exec_setModeHold {s : State} {f : Frame} (h : s.CanTake f) (t : Time) (o : List StandNo) (hv : f.verb = 0x60)
    (hp : f.payload.head? = some 2) {u : State} {r : Result} {d : List Byte}
    (hb : (s.taking t f).setModeHold o = ⟨u, r, d⟩) : exec (.setModeHold t o) s = .next (u.replied f r d) := by
  have ht : takesMode .hold f = true := by
    rw [List.head?_eq_getElem?] at hp
    simp [takesMode, carriesCode, verbSetMode, hv, hp]
    decide
  exact exec_answers h rfl ht ((if_pos hp).trans hb)

/-- A LINE HOLD acts in RUN alone (R164). -/
theorem handHold_of_not_run {s : State} (hm : s.mode ≠ .run) (o : List StandNo) (h : Header) : handHold o h s = s := by
  unfold handHold
  split
  · exact absurd ‹_› hm
  all_goals rfl

/-- A LINE HOLD whose payload check is good is handed to the request handler (R153, R164). -/
theorem exec_lineHold {s : State} {h : Header} {p : List Byte} (t : Time) (o : List StandNo)
    (hread : s.port.reading = .onArrival h) (hverb : h.verb = 0x11) (hlength : p.length = h.length.toNat) :
    exec (.lineHold t p (crcBytes p) o) s = .next (handHold o h (s.arrived t h p)) := by
  show Host.Outcome.next ((s.setClock t).arrivalEnds verbLineHold p (crcBytes p) (handHold o)) = _
  unfold arrivalEnds
  rw [port_setClock, hread]
  dsimp only
  rw [if_pos ⟨hverb, hlength⟩, if_pos rfl]
  rfl

end State

end Machine

end Sys2Proof

open Sys2Proof.Machine Sys2Proof.Machine.State

/-- Settles O17: each of the two frames comes to the change to HOLD in RUN, and to nothing in another mode. -/
theorem holdAbortsSplices : Obligations.HoldAbortsSplices := by
  constructor
  · intro s t o f h hv hp x
    refine ⟨fun hm => ?_, fun hm => ?_, fun hm => ?_⟩
    · have held := goHold_held x o
      refine ⟨_, exec_setModeHold h t o hv hp ?_, held⟩
      simp only [setModeHold, mode_taking, hm, modeAnswer]
      rw [held.mode]
      rfl
    all_goals
      refine exec_setModeHold h t o hv hp ?_
      simp only [setModeHold, mode_taking, hm, modeAnswer]
      rfl
  · intro s t o h p hread hverb _ hlength slot x
    refine ⟨fun hm => ⟨_, exec_lineHold t o hread hverb hlength, ?_⟩, fun hm => ?_⟩
    · have hx : handHold o h x = x.goHold o := by simp only [handHold, show x.mode = .run from hm]
      exact hx ▸ goHold_held x o
    · rw [exec_lineHold t o hread hverb hlength]
      exact congrArg Host.Outcome.next (handHold_of_not_run (s := s.arrived t h p) hm o h)
end

section
/-! SUPPORT. A STAND ORDER that needs the stand's lock, in a mode that allows it and in one that does not (O18, O19, O20). -/

namespace Sys2Proof

namespace Machine

namespace State

variable {s : State} {f : Frame} {t : Time} {i : StandNo} {c : Byte} {more : List Byte} {ok : State → Bool}
  {act : State → StandNo → Answer} {k : Instr} {ask : Bool}

/-- In a mode that refuses the order the stand and its lock are not looked at. -/
theorem exec_lockedOrder_wrongMode (h : s.CanTake f) (hv : f.verb = 0x61)
    (hp : f.payload = BitVec.ofNat 8 (i.val + 1) :: c :: more)
    (hk : exec k s = .next ((s.setClock t).handle (takesOrder c.toNat) ask (lockedOrder c.toNat ok act)))
    (hm : ok (s.taking t f) = false) : exec k s = .next ((s.taking t f).replied f .wrongMode []) := by
  refine exec_answers h hk (takesOrder_code hv hp) ?_
  unfold lockedOrder orderSteps
  rw [needLength_long (by rw [hp]; simp), if_pos (by rw [hp]; rfl), hm]
  rfl

/-- Past the mode and the lock the order's own effect answers. -/
theorem exec_lockedOrder (h : s.CanTake f) (hv : f.verb = 0x61)
    (hp : f.payload = BitVec.ofNat 8 (i.val + 1) :: c :: more) (hl : s.LockPasses i f.sender)
    (hk : exec k s = .next ((s.setClock t).handle (takesOrder c.toNat) ask (lockedOrder c.toNat ok act)))
    (hm : ok (s.taking t f) = true) {u : State} {r : Result} {d : List Byte} (ha : act (s.taking t f) i = ⟨u, r, d⟩) :
    exec k s = .next (u.replied f r d) := by
  refine exec_answers h hk (takesOrder_code hv hp) ?_
  rw [lockedOrder_eq hp hm, needLength_long (by rw [hp]; simp), needStand_named (by rw [hp]; rfl),
    needLock_passes (hl.taking t), ha]

/-- A frame that is taken leaves a stand as it is up to its lock. -/
theorem stand_taking_lock (s : State) (t : Time) (f : Frame) (i : StandNo) :
    (s.taking t f).stand i = { s.stand i with lock := ((s.taking t f).stand i).lock } := by rw [stand_taking]

theorem ctx_taking (s : State) (t : Time) (f : Frame) (i : StandNo) :
    ((s.taking t f).stand i).ctx = (s.stand i).ctx := by rw [stand_taking]

end State

end Machine

end Sys2Proof
end

section
open Sys2Proof.Machine Sys2Proof.Machine.State

/-- Settles O18: outside OFF each order changes the auto mark and settles the stand. -/
theorem autoOrdersSettle : Obligations.AutoOrdersSettle := by
  intro s t f i more h hv x
  have hc : (x.stand i).ctx = (s.stand i).ctx := ctx_taking s t f i
  have settled (a : Bool) : SettledAs i { x.stand i with ctx := { (s.stand i).ctx with auto := a } } x
      ((x.modCtx i fun c => { c with auto := a }).settle i) := by
    rw [modCtx_eq]
    exact settledAs_modStand _ (by rw [hc])
  refine ⟨fun hp => ⟨fun hm => ?_, fun hm hl hoff => ?_, fun hm hl hoff => ?_⟩,
    fun hp hl => ⟨fun hoff => ?_, fun hoff => ?_⟩⟩
  · exact exec_lockedOrder_wrongMode h hv hp rfl (by rw [mode_taking, hm]; rfl)
  · exact exec_lockedOrder h hv hp hl rfl (by simpa using hm) (if_pos (hc ▸ hoff))
  · exact ⟨_, exec_lockedOrder h hv hp hl rfl (by simpa using hm) (if_neg (hc ▸ hoff)), settled true⟩
  · exact exec_lockedOrder h hv hp hl rfl rfl (if_pos (hc ▸ hoff))
  · exact ⟨_, exec_lockedOrder h hv hp hl rfl rfl (if_neg (hc ▸ hoff)), settled false⟩
end

section
/-! SUPPORT. ABORT and the two MANUAL TRACK orders, by the state of the context (O20). -/

namespace Sys2Proof

namespace Machine

namespace State

variable {s : State} {i : StandNo}

theorem abortOrder_of_beforeFire (h : (s.stand i).ctx.state.beforeFire = true) :
    s.abortOrder i = grant (s.abort i .order) := by
  unfold abortOrder
  split
  case h_1 | h_2 | h_3 | h_4 => rfl
  all_goals
    rename_i hs
    rw [hs] at h
    cases h

theorem abortOrder_of_pastFire (h : (s.stand i).ctx.state.pastFire = true) : s.abortOrder i = refuse s .tooLate := by
  unfold abortOrder
  split
  case h_5 | h_6 => rfl
  all_goals
    rename_i hs
    rw [hs] at h
    cases h

theorem abortOrder_of_not_splicing (h : (s.stand i).ctx.state.splicing = false) :
    s.abortOrder i = refuse s .wrongState := by
  unfold abortOrder
  split
  case h_7 | h_8 | h_9 | h_10 | h_11 => rfl
  all_goals
    rename_i hs
    rw [hs] at h
    cases h

section

variable (h : (s.stand i).ctx.state = .runUp ∨ (s.stand i).ctx.state = .matched)

include h

theorem manualOn_there : s.manualOn i =
    grant (if (s.stand i).loop.manual then s else s.modLoop i fun l => { l with manual := true, mode := .track }) := by
  unfold manualOn
  rcases h with h | h <;> rw [h]

theorem manualOff_there : s.manualOff i = grant (if (s.stand i).loop.manual then
      s.modLoop i fun l => { l with manual := false, mode := if l.locked then .track else .acquire }
    else s) := by
  unfold manualOff
  rcases h with h | h <;> rw [h]

end

section

variable (h : ¬ ((s.stand i).ctx.state = .runUp ∨ (s.stand i).ctx.state = .matched))

include h

theorem manualOn_elsewhere : s.manualOn i = refuse s .wrongState := by
  unfold manualOn
  split
  case h_1 hs => exact absurd (.inl hs) h
  case h_2 hs => exact absurd (.inr hs) h
  all_goals rfl

theorem manualOff_elsewhere : s.manualOff i = refuse s .wrongState := by
  unfold manualOff
  split
  case h_1 hs => exact absurd (.inl hs) h
  case h_2 hs => exact absurd (.inr hs) h
  all_goals rfl

end

end State

end Machine

end Sys2Proof
end

section
open Sys2Proof.Machine Sys2Proof.Machine.State

/-- Settles O20: an ABORT is decided by the context's state alone; a MANUAL TRACK order past the mode is decided by the state and
by the mark it finds. -/
theorem abortAndManualTrackOrders : Obligations.AbortAndManualTrackOrders := by
  constructor
  · intro s t f i more h hv hp x
    have hc : (x.stand i).ctx = (s.stand i).ctx := ctx_taking s t f i
    have answers {u : State} {r : Result} (hb : x.abortOrder i = ⟨u, r, []⟩) :
        exec (.standOrderAbort t) s = .next (u.replied f r []) := by
      refine exec_answers h rfl (takesOrder_code hv hp) ?_
      rw [answerAbort_eq hp, needLength_long (by rw [hp]; simp), needStand_named (by rw [hp]; rfl), hb]
    rw [← hc]
    exact ⟨fun hb => ⟨_, answers (abortOrder_of_beforeFire hb), abort_spec x i .order⟩,
      fun hf => answers (abortOrder_of_pastFire hf), fun hn => answers (abortOrder_of_not_splicing hn)⟩
  · intro s t f i more h hv hl x l there
    have hc : (x.stand i).ctx = (s.stand i).ctx := ctx_taking s t f i
    have hloop : (x.stand i).loop = l := by rw [stand_taking]
    have wrongMode (hm : s.mode ≠ .run) : (fun y : State => y.mode == .run) x = false :=
      beq_eq_false_iff_ne.2 hm
    have inRun (hm : s.mode = .run) : (fun y : State => y.mode == .run) x = true := beq_iff_eq.2 hm
    have changed (g : Loop → Loop) : x.modLoop i g = x.setStand i { x.stand i with loop := g l } := by
      rw [← hloop]
      rfl
    constructor
    · intro hp
      have order {u : State} {r : Result} (hm : s.mode = .run) (ha : x.manualOn i = ⟨u, r, []⟩) :=
        exec_lockedOrder (k := .standOrderManualTrackOn t) h hv hp hl rfl (inRun hm) ha
      refine ⟨fun hm => exec_lockedOrder_wrongMode h hv hp rfl (wrongMode hm), fun hm hn => order hm ?_,
        fun hm ht hman => order hm ?_, fun hm ht hman => order hm ?_⟩
      · exact manualOn_elsewhere (by rw [hc]; exact hn)
      · rw [manualOn_there (by rw [hc]; exact ht), hloop, if_pos hman]
        rfl
      · rw [manualOn_there (by rw [hc]; exact ht), hloop, hman, changed]
        rfl
    · intro hp
      have order {u : State} {r : Result} (hm : s.mode = .run) (ha : x.manualOff i = ⟨u, r, []⟩) :=
        exec_lockedOrder (k := .standOrderManualTrackOff t) h hv hp hl rfl (inRun hm) ha
      refine ⟨fun hm => exec_lockedOrder_wrongMode h hv hp rfl (wrongMode hm), fun hm hn => order hm ?_,
        fun hm ht hman => order hm ?_, fun hm ht hman => order hm ?_⟩
      · exact manualOff_elsewhere (by rw [hc]; exact hn)
      · rw [manualOff_there (by rw [hc]; exact ht), hloop, hman]
        rfl
      · rw [manualOff_there (by rw [hc]; exact ht), hloop, if_pos hman, changed]
        rfl
end

section
/-! SUPPORT. The moves of SPLICE NOW: the entry to RUNUP with the EARLY mark, and the entry to FIRE_WAIT (O19). -/

namespace Sys2Proof

namespace Machine

namespace State

variable {s u : State} {i : StandNo}

/-- A change of one stand's own that writes no log record and leaves the port is the write of that stand. -/
theorem OwnChange.eq_setStand (h : OwnChange i s u) (hlog : u.log = s.log) (hseq : u.nextSeq = s.nextSeq)
    (hport : u.port = s.port) : u = s.setStand i (u.stand i) := by
  refine ext_stands (fun j => ?_) (fun k => congrArg (·[k]) h.trackers) h.clock h.mode h.grades h.line h.scanNext hlog hseq
    hport h.pending
  rw [stand_setStand]
  split
  · next e => rw [e]
  · next e => exact h.stands j (Ne.symm e)

theorem runUpAllowed_iff (s : State) (i : StandNo) : s.runUpAllowed i = true ↔
    s.mode = .run ∧ 500 ≤ (s.trackerOf i).v ∧ (s.trackerOf i).state = .tracking ∧ (s.trackerOf i).lowWindow = false ∧
      (s.stand i).freshCh.fault = false := by
  simp [runUpAllowed, and_assoc]

/-! ### SPLICE NOW, by the state of the context -/

theorem spliceNow_of_watch (h : (s.stand i).ctx.state = .watch) : s.spliceNow i =
    if s.runUpAllowed i then grant ((s.enterRunUp i).setEarly i) else refuse s .wrongState := by rw [spliceNow, h]

theorem spliceNow_of_runUp (h : (s.stand i).ctx.state = .runUp) : s.spliceNow i = grant (s.setEarly i) := by
  rw [spliceNow, h]

theorem spliceNow_of_matched (h : (s.stand i).ctx.state = .matched) :
    s.spliceNow i = grant ((s.setEarly i).enterFireWait i) := by rw [spliceNow, h]

/-! ### The moves it makes -/

theorem stand_setEarly (s : State) (i : StandNo) :
    (s.setEarly i).stand i = { s.stand i with ctx := { (s.stand i).ctx with early := true } } := by
  rw [setEarly, stand_modCtx, if_pos rfl]

/-- The entry to RUNUP, and the EARLY mark set on it (R68). -/
theorem RunUpEntered.setEarly {r : ReelRecord} {e : Bool} (h : RunUpEntered i r e s u) :
    RunUpEntered i r true s (u.setEarly i) where
  others := (OwnChange.trans ⟨h.others, h.clock⟩ (modCtx_own u i _)).toKeepsOthers
  clock := h.clock
  log := h.log
  stand := by
    rw [stand_setEarly, h.stand]
  horn := by
    rw [stand_setEarly]
    exact h.horn

@[simp] theorem setStand_setStand (s : State) (i : StandNo) (a b : Stand) :
    (s.setStand i a).setStand i b = s.setStand i b := by simp [setStand]

/-- FIRE_WAIT with a FRESH period held arms the missing-tab timer at three periods (R72). -/
theorem enterFireWait_of_period {q : Nat} (h : (s.stand i).freshCh.lastPeriod = some q) :
    s.enterFireWait i = s.setStand i { s.stand i with
      ctx := { (s.stand i).ctx with state := .fireWait, missingTabAt := some (s.clock + BitVec.ofNat 32 (3 * q)) }
      out := { (s.stand i).out with
        horn := chosenHorn { s.stand i with ctx := { (s.stand i).ctx with state := .fireWait } } s.clock } } := by
  have hf : ((s.enterState i .fireWait).stand i).freshCh = (s.stand i).freshCh := by rw [stand_enterState, if_pos rfl]
  have he : s.enterFireWait i = (s.enterState i .fireWait).modCtx i fun c =>
      { c with missingTabAt := some (s.clock + BitVec.ofNat 32 (3 * q)) } := by
    unfold enterFireWait
    dsimp only
    rw [hf, h]
    dsimp only
    rw [clock_enterState]
    rfl
  rw [he, ((enterState_own s i _).trans (modCtx_own _ i _)).eq_setStand (by simp) (by simp) (by simp), stand_modCtx,
    if_pos rfl, stand_enterState, if_pos rfl]

end State

end Machine

end Sys2Proof
end

section
open Sys2Proof.Machine Sys2Proof.Machine.State

/-- Settles O19: past the mode and the lock the order is decided by the state of the context, and in WATCH by the conditions of
R67. -/
theorem spliceNowActs : Obligations.SpliceNowActs := by
  intro s t f i more h hv hp hl x k ready
  have hc : (x.stand i).ctx = (s.stand i).ctx := ctx_taking s t f i
  have hx : x.stand i = { s.stand i with lock := (x.stand i).lock } := stand_taking_lock s t f i
  have hk : x.trackerOf i = k := by rw [trackerOf, hx, tracker_taking]
  have hfault : (x.stand i).freshCh = (s.stand i).freshCh := by rw [hx]
  have allowed (hm : s.mode = .run) : x.runUpAllowed i = true ↔ ready := by
    rw [runUpAllowed_iff, hk, hfault]
    exact and_iff_right hm
  have order {u : State} {r : Result} (hm : s.mode = .run) (ha : x.spliceNow i = ⟨u, r, []⟩) :=
    exec_lockedOrder (k := .standOrderSpliceNow t) h hv hp hl rfl (beq_iff_eq.2 hm) ha
  have early : x.setEarly i = x.setStand i { x.stand i with ctx := { (s.stand i).ctx with early := true } } := by
    rw [← hc]
    rfl
  refine ⟨fun hm => exec_lockedOrder_wrongMode h hv hp rfl (beq_eq_false_iff_ne.2 hm), fun hm hs hn => order hm ?_,
    fun r hm hs hr hq hd => ⟨_, order hm ?_, (enterRunUp_spec x i r (by rw [hx]; exact hq) hd).setEarly⟩,
    fun hm hs => order hm ?_, fun q hm hs hq => ?_⟩
  · exact (spliceNow_of_watch (hc ▸ hs)).trans (if_neg (mt (allowed hm).1 hn))
  · exact (spliceNow_of_watch (hc ▸ hs)).trans (if_pos ((allowed hm).2 hr))
  · rw [spliceNow_of_runUp (hc ▸ hs), early]
    rfl
  · have hw : (x.setEarly i).enterFireWait i = _ := enterFireWait_of_period (q := q) (by rw [stand_setEarly, hx]; exact hq)
    rw [stand_setEarly, hc] at hw
    refine ⟨_, pattern_chosenHorn { x.stand i with
      ctx := { (s.stand i).ctx with state := .fireWait, early := true } } t, order hm ?_⟩
    rw [spliceNow_of_matched (hc ▸ hs), hw, early, setStand_setStand, hx]
    rfl
end

section
/-! SUPPORT. What the timers of a context and of an output unit do when they expire (O42). -/

namespace Sys2Proof

namespace Machine

namespace State

variable {s u : State} {i : StandNo} {t : Time}

/-- An abort clears the missing-tab timer (R84), so it is the same with the timer cleared before. -/
theorem AbortedBy.of_disarmed {c : AbortCause} {ks : List EventKind} {m : Option Time}
    (h : AbortedBy i c ks (s.modCtx i fun x => { x with missingTabAt := m }) u) : AbortedBy i c ks s u where
  others := ((modCtx_own s i _).trans ⟨h.others, h.clock⟩).toKeepsOthers
  clock := h.clock
  stand := by
    rw [h.stand, stand_modCtx, if_pos rfl]
    rfl
  horn := h.horn
  log := by
    rw [h.log]
    simp [abortRecord, reelIds]
  nextSeq := h.nextSeq
  release := h.release
  withdrawn := h.withdrawn

theorem missingTabEnds_aborts (h : (s.stand i).ctx.missingTabAt = some s.clock)
    (hs : (s.stand i).ctx.state = .fireWait ∨ (s.stand i).ctx.state = .fireSet) :
    AbortedBy i .noTab [] s (s.missingTabEnds i) := by
  have he : s.missingTabEnds i = (s.modCtx i fun c => { c with missingTabAt := none }).abort i .noTab := by
    unfold missingTabEnds
    dsimp only
    rw [if_pos (due_of_armed h), if_pos hs]
  exact he ▸ (abort_spec _ i .noTab).of_disarmed

/-- The end of STOPPING is an entry to the resting state of R61 (R85). -/
theorem stoppingEnds_rests (h : (s.stand i).ctx.stoppingAt = some s.clock) (hs : (s.stand i).ctx.state = .stopping) :
    ∃ horn : Horn, s.stoppingEnds i = s.setStand i { s.stand i with
      ctx := { (s.stand i).ctx with
        stoppingAt := none
        state := restingFor s.mode (s.stand i)
        early := false
        cause := none
        prewarn := false }
      out := { (s.stand i).out with horn := horn } } := by
  have he : s.stoppingEnds i = (s.modCtx i fun c => { c with stoppingAt := none }).enterRest i := by
    unfold stoppingEnds
    dsimp only
    rw [if_pos (due_of_armed h), if_pos hs]
  obtain ⟨horn, hr⟩ := stand_enterRest (s.modCtx i fun c => { c with stoppingAt := none }) i i
  refine ⟨horn, ?_⟩
  rw [(stoppingEnds_own s i).eq_setStand (by simp [he, enterRest]) (by simp [he, enterRest]) (by simp [he, enterRest]), he, hr,
    if_pos rfl, stand_modCtx, if_pos rfl]
  rfl

/-- A change of a stand's output unit at this instant. -/
theorem modOut_at {f : Output → Output} {o : Output} (h : f (s.stand i).out = o) :
    (s.setClock t).modOut i f = ({ s with clock := t } : State).setStand i { s.stand i with out := o } := h ▸ rfl

end State

end Machine

end Sys2Proof
end

section
open Sys2Proof.Machine Sys2Proof.Machine.State

/-- Settles O42: an armed timer that comes due has its one effect. -/
theorem timersExpire : Obligations.TimersExpire := by
  refine ⟨fun s t i h hs => ⟨_, rfl, missingTabEnds_aborts (s := s.setClock t) h hs⟩, fun s t i h hs => ?_, ?_⟩
  · obtain ⟨horn, he⟩ := stoppingEnds_rests (s := s.setClock t) h hs
    exact ⟨horn, congrArg Host.Outcome.next he⟩
  · intro s t i o with_ half
    have hhalf (p : Fin 4) : after t (halfPeriod p) = t + half p := by
      match p with
      | 0 | 1 | 2 | 3 => rfl
    have changed {f : Output → Output} {o' : Output} (h : f o = o') : (s.setClock t).modOut i f = with_ o' := modOut_at h
    have moves {a b : State} (h : a = b) : (Host.Outcome.next a : StepOutcome) = .next b := congrArg _ h
    refine ⟨fun h => moves (changed (if_pos (due_of_armed h))), fun h => moves (changed (if_pos (due_of_armed h))),
      fun h => moves (changed (if_pos (due_of_armed h))), fun h => moves (changed (if_pos (due_of_armed h))),
      fun h => moves (changed ?_), fun h hsound => moves (changed ?_), fun h hsound => moves (changed ?_)⟩
    · rw [Horn.halfEnds, if_pos (due_of_armed h), hhalf]
    · rw [Horn.phaseEnds, if_pos (due_of_armed h), if_pos hsound]
      rfl
    · rw [Horn.phaseEnds, if_pos (due_of_armed h), hsound, hhalf]
      rfl
end

section
/-! SUPPORT. The knife fires (O40). -/

namespace Sys2Proof

namespace Machine

namespace State

variable {s : State} {i : StandNo}

/-- The outputs of a stand when KNIFE is asserted, or barred by the latch (R114, R116), and a brake cycle starts (R118). -/
def knifeFired (x : Stand) (now : Time) : Output :=
  { x.out with
    knife := if x.out.latch then x.out.knife else true
    knifeEndAt := if x.out.latch then x.out.knifeEndAt else some (after now (x.record.knifePulse * 1000))
    brakeDelayAt := some (after now (x.record.brakeDelay * 1000))
    brakeHoldAt := none }

theorem stand_assertKnife_startBrake (s : State) (i : StandNo) :
    ((s.assertKnife i).startBrake i).stand i = { s.stand i with out := knifeFired (s.stand i) s.clock } := by
  cases hl : (s.stand i).out.latch
  · have ha : s.assertKnife i = s.modOut i fun o =>
      { o with knife := true, knifeEndAt := some (after s.clock ((s.stand i).record.knifePulse * 1000)) } := by
      rw [assertKnife, hl]
      rfl
    rw [ha, startBrake, stand_modOut, if_pos rfl, stand_modOut, if_pos rfl, knifeFired, hl]
    rfl
  · have ha : s.assertKnife i = s := by rw [assertKnife, hl]; rfl
    rw [ha, startBrake, stand_modOut, if_pos rfl, knifeFired, hl]
    rfl

theorem log_assertKnife_startBrake (s : State) (i : StandNo) : ((s.assertKnife i).startBrake i).log = s.log := by
  unfold startBrake assertKnife
  dsimp only
  split <;> rfl

theorem clock_assertKnife_startBrake (s : State) (i : StandNo) : ((s.assertKnife i).startBrake i).clock = s.clock := by
  unfold startBrake assertKnife
  dsimp only
  split <;> rfl

/-- The stand when the knife has fired (R80). -/
theorem stand_fireKnife (s : State) (i : StandNo) : ∃ h : Horn, h.pattern = .off ∧
    (s.fireKnife i).stand i = { s.stand i with
      ctx := { (s.stand i).ctx with state := .cut, confirmAt := some (s.clock + 2000000) }
      out := { knifeFired (s.stand i) s.clock with horn := h } } := by
  refine ⟨_, pattern_chosenHorn { s.stand i with ctx := { (s.stand i).ctx with state := .cut } } s.clock, ?_⟩
  unfold fireKnife
  dsimp only
  rw [stand_queueDrive, stand_modCtx, if_pos rfl, stand_assertKnife_startBrake, clock_assertKnife_startBrake,
    stand_enterState, if_pos rfl, clock_enterState]
  rfl

theorem log_fireKnife (s : State) (i : StandNo) : (s.fireKnife i).log = s.log := by
  unfold fireKnife
  dsimp only
  rw [log_queueDrive, log_modCtx, log_assertKnife_startBrake, log_enterState]

theorem knifeEnds_fires (h : (s.stand i).out.knifeAt = some s.clock) (hs : (s.stand i).ctx.state = .pasting) :
    s.knifeEnds i = (s.modOut i fun o => { o with knifeAt := none }).fireKnife i := by
  unfold knifeEnds
  dsimp only
  rw [if_pos (due_of_armed h), if_pos hs]

end State

end Machine

end Sys2Proof
end

section
open Sys2Proof.Machine Sys2Proof.Machine.State

/-- Settles O40: the armed timer comes due in PASTING, and the knife fires. -/
theorem knifeFires : Obligations.KnifeFires := by
  intro s t i hk hs r latch
  have he := knifeEnds_fires (s := s.setClock t) hk hs
  have hown := knifeEnds_own (s.setClock t) i
  obtain ⟨horn, hoff, hst⟩ := stand_fireKnife ((s.setClock t).modOut i fun o => { o with knifeAt := none }) i
  rw [← he] at hst
  refine ⟨_, rfl, hown.afterClock, hown.clock, ?_, ?_, ?_, ?_⟩
  · rw [he, log_fireKnife]
    rfl
  · rw [hst, stand_modOut, if_pos rfl]
    rfl
  · rw [hst]
    exact hoff
  · rw [he]
    exact queueDrive_ordered _ i .handover
end

section
/-! SUPPORT. The prediction of a context in WATCH: its figures, what it enters and what it warns of (O36). -/

namespace Sys2Proof

namespace Machine

namespace State

variable {s u : State} {i : StandNo}

/-! ### The figures (R64) -/

theorem quotient_pos {a b : Nat} (h : 0 < b) : quotient a b = a / b := if_neg (Nat.ne_of_gt h)

theorem remainingLength_eq {run : RunningReel} (h : (s.stand i).running = some run)
    (hc : 0 < (s.grade run.grade).caliper) : s.remainingLength i =
      if (s.grade run.grade).spliceDiameter < (s.stand i).dRun then
        355 * ((s.stand i).dRun * (s.stand i).dRun -
          (s.grade run.grade).spliceDiameter * (s.grade run.grade).spliceDiameter) * 10 / (452 * (s.grade run.grade).caliper)
      else 0 := by
  simp only [remainingLength, runningGrade, h]
  rw [quotient_pos (by omega)]

theorem startTime_eq {r : ReelRecord} (h : (s.stand i).queue.head? = some r) (hr : 0 < (s.grade r.grade).runUpRate)
    (v : Nat) : s.startTime i v =
      v * 1000 / (s.grade r.grade).runUpRate + (s.grade r.grade).settleTime + (s.stand i).record.leadMargin := by
  simp only [startTime, headGrade, head, h]
  rw [quotient_pos hr]

/-! ### The rise of the prewarn mark leaves what RUNUP is decided by (R65) -/

theorem stand_risePrewarn (s : State) (i : StandNo) : (s.risePrewarn i).stand i = { s.stand i with
    ctx := { (s.stand i).ctx with prewarn := true }
    out := { (s.stand i).out with horn := ((s.risePrewarn i).stand i).out.horn }
    events := latched (s.stand i).events (if (s.stand i).ctx.prewarn then [] else [.prewarn]) } := by
  obtain ⟨o, hs, ho, -⟩ := risePrewarn_stand s i
  rw [hs, ← ho]

theorem risePrewarn_of_prewarn (h : (s.stand i).ctx.prewarn = true) : s.risePrewarn i = s := if_pos h

theorem startTime_risePrewarn (s : State) (i : StandNo) (v : Nat) :
    (s.risePrewarn i).startTime i v = s.startTime i v := by
  unfold startTime headGrade head grade
  rw [stand_risePrewarn, (risePrewarn_own s i).grades]

theorem runUpAllowed_risePrewarn (s : State) (i : StandNo) : (s.risePrewarn i).runUpAllowed i = s.runUpAllowed i := by
  unfold runUpAllowed trackerOf State.tracker
  rw [stand_risePrewarn, (risePrewarn_own s i).mode, (risePrewarn_own s i).trackers]

theorem freshChoice_risePrewarn (s : State) (i : StandNo) (r : ReelRecord) :
    (s.risePrewarn i).freshChoice i r = s.freshChoice i r := by
  unfold State.freshChoice grade
  rw [stand_risePrewarn, (risePrewarn_own s i).grades]

theorem waitingDrives_risePrewarn (s : State) (i : StandNo) :
    (s.risePrewarn i).port.waitingDrives = s.port.waitingDrives := by
  unfold risePrewarn
  split
  · rfl
  · obtain ⟨-, -, hw⟩ := raise_tx (s.setPrewarn i true) i .prewarn
    rw [hw, port_setPrewarn]

theorem log_risePrewarn (s : State) (i : StandNo) :
    (s.risePrewarn i).log = s.log ∧ (s.risePrewarn i).nextSeq = s.nextSeq := by
  unfold risePrewarn
  split
  · exact ⟨rfl, rfl⟩
  · simp [setPrewarn]

/-- An entry to RUNUP raises the prewarn mark itself (R66): a rise just before it makes no difference. -/
theorem RunUpEntered.of_risePrewarn {r : ReelRecord} {e : Bool} (h : RunUpEntered i r e (s.risePrewarn i) u) :
    RunUpEntered i r e s u where
  others := ((risePrewarn_own s i).trans ⟨h.others, h.clock⟩).toKeepsOthers
  clock := h.clock.trans (risePrewarn_own s i).clock
  log := ⟨h.log.1.trans (log_risePrewarn s i).1, h.log.2.trans (log_risePrewarn s i).2⟩
  stand := by
    rw [h.stand, freshChoice_risePrewarn, stand_risePrewarn]
    cases (s.stand i).ctx.prewarn <;> rfl
  horn := h.horn

/-! ### The decisions (R65, R66) -/

/-- Its remaining time is within the start time and R67 allows the entry to RUNUP. -/
def PredictsRunUp (s : State) (i : StandNo) : Prop :=
  s.remainingLength i * 1000 / (s.trackerOf i).v ≤ s.startTime i (s.trackerOf i).v ∧ s.runUpAllowed i = true

/-- Its remaining time is within the warn time. -/
def PredictsWarning (s : State) (i : StandNo) : Prop :=
  s.remainingLength i * 1000 / (s.trackerOf i).v ≤ (s.stand i).record.warnTime

theorem predict_below (h : (s.trackerOf i).v < 300) : s.predict i = s := if_pos h

open Classical in
/-- Within the warn time the prewarn mark rises first, and the decision about RUNUP is the same. -/
theorem predict_within (hv : 300 ≤ (s.trackerOf i).v) (hw : s.PredictsWarning i) : s.predict i =
    if s.PredictsRunUp i then (s.risePrewarn i).enterRunUp i else s.risePrewarn i := by
  unfold PredictsWarning at hw
  unfold predict PredictsRunUp
  dsimp only
  rw [if_neg (by omega), if_pos hw, startTime_risePrewarn, runUpAllowed_risePrewarn]
  congr

open Classical in
theorem predict_beyond (hv : 300 ≤ (s.trackerOf i).v) (hw : ¬ s.PredictsWarning i) : s.predict i =
    if s.PredictsRunUp i then s.enterRunUp i else s := by
  unfold PredictsWarning at hw
  unfold predict PredictsRunUp
  dsimp only
  rw [if_neg (by omega), if_neg hw]
  congr

theorem predict_warns (hv : 300 ≤ (s.trackerOf i).v) (hn : ¬ s.PredictsRunUp i) (hw : s.PredictsWarning i) :
    s.predict i = s.risePrewarn i := by rw [predict_within hv hw, if_neg hn]

theorem predict_waits (hv : 300 ≤ (s.trackerOf i).v) (hn : ¬ s.PredictsRunUp i) (hw : ¬ s.PredictsWarning i) :
    s.predict i = s := by rw [predict_beyond hv hw, if_neg hn]

theorem predict_enters {r : ReelRecord} (hv : 300 ≤ (s.trackerOf i).v) (hp : s.PredictsRunUp i)
    (hr : (s.stand i).queue.head? = some r) (hd : ∀ d ∈ s.port.waitingDrives, d.stand ≠ i) :
    RunUpEntered i r (s.stand i).ctx.early s (s.predict i) := by
  by_cases hw : s.PredictsWarning i
  · rw [predict_within hv hw, if_pos hp]
    have hs := stand_risePrewarn s i
    have entered := enterRunUp_spec (s.risePrewarn i) i r (by rw [hs]; exact hr) (by rw [waitingDrives_risePrewarn]; exact hd)
    rw [hs] at entered
    exact entered.of_risePrewarn
  · rw [predict_beyond hv hw, if_pos hp]
    exact enterRunUp_spec s i r hr hd

/-- The entry to RUNUP raises its own event, and PREWARN when the mark was clear (R66). -/
theorem RunUpEntered.events {r : ReelRecord} {e : Bool} (h : RunUpEntered i r e s u) :
    hasEvent (u.stand i).events .runUpStart = true ∧
      ((s.stand i).ctx.prewarn = false → hasEvent (u.stand i).events .prewarn = true) := by
  rw [h.stand]
  cases (s.stand i).ctx.prewarn
  · exact ⟨hasEvent_withEvent _ _, fun _ => hasEvent_withEvent_of_has (hasEvent_withEvent _ _) _⟩
  · exact ⟨hasEvent_withEvent _ _, fun h => by cases h⟩

end State

end Machine

end Sys2Proof
end

section
open Sys2Proof.Machine Sys2Proof.Machine.State

/-- Settles O36: the two figures decide between the entry to RUNUP, the warning and nothing. -/
theorem predictionDecides : Obligations.PredictionDecides := by
  intro s i dt r run hs hr hrun hcal hrate hd k dRun dSp lRem tRem tStart go u
  have hu : u = s.predict i := contextHears_watch hs dt
  have hrem : s.remainingLength i * 1000 / k.v = tRem := by rw [remainingLength_eq hrun hcal]
  have hstart : s.startTime i k.v = tStart := startTime_eq hr hrate _
  have hgo : s.PredictsRunUp i ↔ go := by
    show s.remainingLength i * 1000 / k.v ≤ s.startTime i k.v ∧ s.runUpAllowed i = true ↔ go
    rw [hrem, hstart, runUpAllowed_iff]
    rfl
  have hwarn : s.PredictsWarning i ↔ tRem ≤ (s.stand i).record.warnTime := by rw [← hrem]; rfl
  have hothers : KeepsOthers i s u := (contextHears_own s i _).toKeepsOthers
  rw [hu] at hothers ⊢
  refine ⟨predict_below, fun hv hn hw hpre => ⟨hothers, ?_⟩, fun hv hn hw => ?_, fun hv hg => ⟨hothers, ?_⟩⟩
  · rw [predict_warns hv (mt hgo.1 hn) (hwarn.2 hw), stand_risePrewarn, hpre]
    exact ⟨rfl, rfl⟩
  · by_cases hin : s.PredictsWarning i
    · rw [predict_warns hv (mt hgo.1 hn) hin]
      exact risePrewarn_of_prewarn (hw.resolve_left (Nat.not_lt.2 (hwarn.1 hin)))
    · exact predict_waits hv (mt hgo.1 hn) hin
  · have entered := predict_enters hv (hgo.2 hg) hr hd
    rw [entered.stand]
    exact ⟨rfl, rfl, rfl, rfl, rfl, entered.stand ▸ entered.events⟩
end

section
/-! SUPPORT. The order of a loop's reference: the entry it rewrites, the entry it adds, and when it is not placed (O35). -/

namespace Sys2Proof

namespace Machine

/-- A REFERENCE of the stand that is not begun: the entry that a new order rewrites (R96). -/
def TxEntry.Rewritable (i : StandNo) (e : TxEntry) : Prop := e.begun = false ∧ ∃ v, e.body = .reference i v

theorem TxEntry.rewritable_iff {i : StandNo} {e : TxEntry} :
    (e.isReference i && !e.begun) = true ↔ e.Rewritable i := by
  have hbody : e.isReference i = true ↔ ∃ v, e.body = .reference i v := by
    unfold TxEntry.isReference
    cases e.body <;> simp
  rw [Bool.and_eq_true, Bool.not_eq_true', hbody, and_comm]
  rfl

namespace State

variable {s : State} {i : StandNo}

theorem rampedSpeed_le (s : State) (i : StandNo) (dt : Nat) : s.rampedSpeed i dt ≤ 16000 := by
  unfold rampedSpeed
  dsimp only
  omega

theorem any_rewritable_iff :
    (s.port.tx.any fun e => e.isReference i && !e.begun) = true ↔ ∃ e ∈ s.port.tx, e.Rewritable i := by
  simp only [List.any_eq_true, TxEntry.rewritable_iff]

/-- The order rewrites each entry of the stand that is not begun, and no other. -/
theorem placeReference_rewrites (h : ∃ e ∈ s.port.tx, e.Rewritable i) (v : Nat) :
    ∃ tx : List TxEntry, s.placeReference i v =
        (s.modPort fun p => { p with tx := tx }).modLoop i (fun l => { l with reference := v }) ∧
      tx.length = s.port.tx.length ∧
      ∀ n (h : n < s.port.tx.length) (h' : n < tx.length),
        (s.port.tx[n].Rewritable i → tx[n] = { s.port.tx[n] with body := .reference i v }) ∧
        (¬ s.port.tx[n].Rewritable i → tx[n] = s.port.tx[n]) := by
  refine ⟨_, if_pos (any_rewritable_iff.2 h), List.length_map .., fun n _ _ => ?_⟩
  rw [List.getElem_map]
  exact ⟨fun hw => if_pos (TxEntry.rewritable_iff.2 hw), fun hw => if_neg (mt TxEntry.rewritable_iff.1 hw)⟩

theorem placeReference_appends (h : ¬ ∃ e ∈ s.port.tx, e.Rewritable i) (hf : s.hasFree = true) (v : Nat) :
    s.placeReference i v =
      (s.place ⟨.urgent, (s.stand i).record.driveStation, .reference i v, false, false⟩).modLoop i
        (fun l => { l with reference := v }) :=
  (if_neg (mt any_rewritable_iff.1 h)).trans (if_pos hf)

theorem placeReference_declines (h : ¬ ∃ e ∈ s.port.tx, e.Rewritable i) (hf : ¬ s.hasFree = true) (v : Nat) :
    s.placeReference i v = s :=
  (if_neg (mt any_rewritable_iff.1 h)).trans (if_neg hf)

end State

end Machine

end Sys2Proof
end

section
open Sys2Proof.Machine Sys2Proof.Machine.State

/-- Settles O35: the update places the ramped speed, by the rewriting of an entry, by a new one, or not at all. -/
theorem referenceRampsAndCoalesces : Obligations.ReferenceRampsAndCoalesces := by
  intro s i dt l speed waiting x
  have hnone (h : ∀ e ∈ s.port.tx, ¬ waiting e) : ¬ ∃ e ∈ s.port.tx, e.Rewritable i :=
    fun ⟨e, he, hw⟩ => h e he hw
  rw [updateReference_ramped]
  refine ⟨rampedSpeed_le s i dt, fun h => placeReference_rewrites h speed, fun h hfree => ?_, fun h hfull => ?_⟩
  · exact placeReference_appends (hnone h) ((hasFree_iff s).2 hfree) speed
  · exact placeReference_declines (hnone h) (mt (hasFree_iff s).1 (Nat.not_lt.2 hfull)) speed
end

section
/-! SUPPORT. A tab mark in a RUNNING loop: the correction, the lock detector, the unlock, and what the context makes of LOCKED
set and cleared (O34). -/

namespace Sys2Proof

namespace Machine

/-- A loop after its unlock (R99). -/
def Loop.unlocked (l : Loop) : Loop :=
  { l with lockCount := 0, locked := false, mode := if l.manual then .track else .acquire }

/-- What the lock detector and the context leave of a loop: C, R and the manual mark. -/
def Loop.steering (l : Loop) : Int × Nat × Bool := (l.correction, l.reference, l.manual)

/-- The contexts that LOCKED cleared takes back to RUNUP (R70). -/
def CtxState.needsLock (c : CtxState) : Prop := c = .matched ∨ c = .fireWait ∨ c = .fireSet

namespace State

variable {s : State} {i : StandNo} {e : Int}

/-! ### The grades through a change of the loop -/

theorem headGrade_modLoop (s : State) (i : StandNo) (f : Loop → Loop) : (s.modLoop i f).headGrade i = s.headGrade i := by
  unfold headGrade head
  rw [stand_modLoop, if_pos rfl]
  rfl

/-- The running grade hangs on the stand's running reel and the table alone. -/
theorem OwnChange.runningGrade_eq {u : State} (h : OwnChange i s u) (hr : (u.stand i).running = (s.stand i).running) :
    u.runningGrade i = s.runningGrade i := by
  unfold runningGrade grade
  rw [hr, h.grades]

/-! ### What the context does to its stand when it hears of LOCKED (R69, R70) -/

/-- LOCKED set changes the context and its horn alone, or the splice is aborted. -/
theorem lockSet_cases (s : State) (i : StandNo) :
    (∃ c h, (s.lockSet i).stand i = { s.stand i with ctx := c, out := { (s.stand i).out with horn := h } }) ∨
      ∃ c, AbortedBy i c [] s (s.lockSet i) := by
  obtain ⟨hother, hup⟩ := lockSet_spec s i
  by_cases hs : (s.stand i).ctx.state = .runUp
  · obtain ⟨htension, hmatched, hfires⟩ := hup hs
    by_cases hx : (s.stand i).dancer.excursionRun = 3
    · exact .inr ⟨_, htension hx⟩
    · by_cases hf : (s.stand i).ctx.early = true ∨ (s.stand i).dRun ≤ (s.runningGrade i).spliceDiameter
      · cases hq : (s.stand i).freshCh.lastPeriod with
        | some q => exact .inl ⟨_, _, ((hfires hx hf).1 q hq).2⟩
        | none => exact .inr ⟨_, (hfires hx hf).2 hq⟩
      · exact .inl ⟨_, _, (hmatched hx hf).2⟩
  · exact .inl ⟨_, _, by rw [hother hs]⟩

/-- LOCKED set changes no more of the loop than its activity. -/
theorem loop_lockSet (s : State) (i : StandNo) :
    ∃ a, ((s.lockSet i).stand i).loop = { (s.stand i).loop with activity := a } := by
  rcases lockSet_cases s i with ⟨c, h, hs⟩ | ⟨c, hc⟩
  · exact ⟨_, by rw [hs]⟩
  · exact ⟨_, by rw [hc.stand]⟩

theorem hasEvent_lockSet {k : EventKind} (h : hasEvent (s.stand i).events k = true) :
    hasEvent ((s.lockSet i).stand i).events k = true := by
  rcases lockSet_cases s i with ⟨c, horn, hs⟩ | ⟨c, hc⟩
  · rw [hs]
    exact h
  · rw [hc.stand]
    exact hasEvent_withEvent_of_has h .aborted

/-- An abort leaves the context in STOPPING with its cause (R84). -/
theorem AbortedBy.stops {c : AbortCause} {ks : List EventKind} {u : State} (h : AbortedBy i c ks s u) :
    (u.stand i).ctx.state = .stopping ∧ (u.stand i).ctx.cause = some c := by
  rw [h.stand]
  exact ⟨rfl, rfl⟩

/-! ### The unlock (R99) -/

theorem unlock_of_locked (h : (s.stand i).loop.locked = true) :
    s.unlock i = (s.modLoop i Loop.unlocked).lockCleared i := if_pos h

theorem unlock_of_open (h : (s.stand i).loop.locked = false) : s.unlock i = s.modLoop i Loop.unlocked :=
  if_neg (by rw [h]; decide)

/-- A loop that was not locked, or whose context does not need the lock, changes alone. -/
theorem unlock_quiet (h : (s.stand i).loop.locked = false ∨ ¬ (s.stand i).ctx.state.needsLock) :
    s.unlock i = s.modLoop i Loop.unlocked := by
  cases hl : (s.stand i).loop.locked with
  | false => exact unlock_of_open hl
  | true =>
    have hn : ¬ ((s.modLoop i Loop.unlocked).stand i).ctx.state.needsLock := by
      rw [stand_modLoop, if_pos rfl]
      exact h.resolve_left (by rw [hl]; decide)
    rw [unlock_of_locked hl, (lockCleared_spec _ i).1 hn]

/-- A context that needs the lock goes back to RUNUP (R70). -/
theorem stand_unlock_of_needsLock (hl : (s.stand i).loop.locked = true) (hc : (s.stand i).ctx.state.needsLock) :
    ∃ horn, (s.unlock i).stand i = { s.stand i with
      loop := (s.stand i).loop.unlocked
      ctx := { (s.stand i).ctx with state := .runUp, missingTabAt := none }
      out := { (s.stand i).out with pasterAt := none, horn := horn } } := by
  have hx : (s.modLoop i Loop.unlocked).stand i = { s.stand i with loop := (s.stand i).loop.unlocked } := by
    rw [stand_modLoop, if_pos rfl]
  obtain ⟨-, -, hs⟩ := (lockCleared_spec (s.modLoop i Loop.unlocked) i).2 (by rw [hx]; exact hc)
  rw [unlock_of_locked hl, hs, hx]
  exact ⟨_, rfl⟩

theorem stand_unlock_quiet (h : (s.stand i).loop.locked = false ∨ ¬ (s.stand i).ctx.state.needsLock) :
    (s.unlock i).stand i = { s.stand i with loop := (s.stand i).loop.unlocked } := by
  rw [unlock_quiet h, stand_modLoop, if_pos rfl]

theorem loop_unlock (s : State) (i : StandNo) : ((s.unlock i).stand i).loop = (s.stand i).loop.unlocked := by
  cases hl : (s.stand i).loop.locked with
  | false => rw [stand_unlock_quiet (.inl hl)]
  | true =>
    by_cases hc : (s.stand i).ctx.state.needsLock
    · obtain ⟨horn, hs⟩ := stand_unlock_of_needsLock hl hc
      rw [hs]
    · rw [stand_unlock_quiet (.inr hc)]

/-! ### The lock detector (R98) -/

/-- The lock count after an error within the band. -/
def nextLockCount (s : State) (i : StandNo) : Nat := min (s.headGrade i).lockCount ((s.stand i).loop.lockCount + 1)

/-- LOCKED is set, before the context hears of it. -/
def locking (s : State) (i : StandNo) : State :=
  ((s.modLoop i fun l => { l with lockCount := s.nextLockCount i }).modLoop i
    fun l => { l with locked := true, mode := .track }).raise i .locked

theorem stand_locking (s : State) (i : StandNo) : (s.locking i).stand i = { s.stand i with
    loop := { (s.stand i).loop with lockCount := s.nextLockCount i, locked := true, mode := .track }
    events := withEvent (s.stand i).events .locked } := by
  simp [locking]

theorem locking_own (s : State) (i : StandNo) : OwnChange i s (s.locking i) :=
  (modLoop_own s i _).trans ((modLoop_own _ i _).trans (raise_own _ i _))

theorem detectLock_outside (h : (s.headGrade i).lockBand < e.natAbs) :
    s.detectLock i e = s.modLoop i fun l => { l with lockCount := 0 } := if_neg (Nat.not_le.2 h)

/-- Within the band the count goes on, and LOCKED is set at the grade's lock count. -/
theorem detectLock_within (h : e.natAbs ≤ (s.headGrade i).lockBand) : s.detectLock i e =
    if (s.headGrade i).lockCount ≤ s.nextLockCount i ∧ (s.stand i).loop.locked = false then (s.locking i).lockSet i
    else s.modLoop i fun l => { l with lockCount := s.nextLockCount i } := by
  unfold detectLock locking nextLockCount
  dsimp only
  rw [if_pos h, capNat_eq_min]
  simp only [Bool.not_eq_true']

theorem detectLock_counts (h : e.natAbs ≤ (s.headGrade i).lockBand)
    (hn : s.nextLockCount i < (s.headGrade i).lockCount ∨ (s.stand i).loop.locked = true) :
    s.detectLock i e = s.modLoop i fun l => { l with lockCount := s.nextLockCount i } := by
  rw [detectLock_within h, if_neg]
  rintro ⟨hcount, hopen⟩
  rcases hn with hn | hn
  · omega
  · rw [hn] at hopen
    cases hopen

theorem detectLock_locks (h : e.natAbs ≤ (s.headGrade i).lockBand)
    (hn : (s.headGrade i).lockCount ≤ s.nextLockCount i) (hl : (s.stand i).loop.locked = false) :
    s.detectLock i e = (s.locking i).lockSet i := by
  rw [detectLock_within h, if_pos ⟨hn, hl⟩]

/-- The loop when LOCKED has been set; a context that aborts stops it. -/
theorem loop_lockSet_locking (s : State) (i : StandNo) : ∃ a, (((s.locking i).lockSet i).stand i).loop =
    { (s.stand i).loop with activity := a, lockCount := s.nextLockCount i, locked := true, mode := .track } := by
  obtain ⟨a, ha⟩ := loop_lockSet (s.locking i) i
  exact ⟨a, by rw [ha, stand_locking]⟩

theorem loop_detectLock_within (h : e.natAbs ≤ (s.headGrade i).lockBand) :
    ((s.detectLock i e).stand i).loop.lockCount = s.nextLockCount i ∧
      ((s.headGrade i).lockCount ≤ s.nextLockCount i → ((s.detectLock i e).stand i).loop.locked = true) := by
  by_cases hn : s.nextLockCount i < (s.headGrade i).lockCount ∨ (s.stand i).loop.locked = true
  · rw [detectLock_counts h hn, stand_modLoop, if_pos rfl]
    exact ⟨rfl, fun hc => hn.resolve_left (Nat.not_lt.2 hc)⟩
  · obtain ⟨hn, hl⟩ := not_or.1 hn
    obtain ⟨a, ha⟩ := loop_lockSet_locking s i
    rw [detectLock_locks h (Nat.not_lt.1 hn) (Bool.eq_false_iff.2 hl), ha]
    exact ⟨rfl, fun _ => rfl⟩

theorem steering_detectLock (s : State) (i : StandNo) (e : Int) :
    ((s.detectLock i e).stand i).loop.steering = (s.stand i).loop.steering := by
  rcases Nat.lt_or_ge (s.headGrade i).lockBand e.natAbs with h | h
  · rw [detectLock_outside h, stand_modLoop, if_pos rfl]
    rfl
  · rw [detectLock_within h]
    split
    · obtain ⟨a, ha⟩ := loop_lockSet_locking s i
      rw [ha]
      rfl
    · rw [stand_modLoop, if_pos rfl]
      rfl

/-! ### The tab mark (R97) -/

/-- V − V_f, the error at a tab mark. -/
def speedError (s : State) (i : StandNo) : Int := ((s.trackerOf i).v : Int) - (s.stand i).vFresh

/-- The correction that a tab mark gives. -/
def tabCorrection (s : State) (i : StandNo) : Int := corrected (s.stand i).loop (s.headGrade i) (s.speedError i)

/-- The correction is moved, before the lock is looked at. -/
def correct (s : State) (i : StandNo) : State := s.modLoop i fun l => { l with correction := s.tabCorrection i }

theorem stand_correct (s : State) (i : StandNo) : (s.correct i).stand i = { s.stand i with
    loop := { (s.stand i).loop with correction := s.tabCorrection i } } := by
  rw [correct, stand_modLoop, if_pos rfl]

theorem headGrade_correct (s : State) (i : StandNo) : (s.correct i).headGrade i = s.headGrade i :=
  headGrade_modLoop s i _

theorem nextLockCount_correct (s : State) (i : StandNo) : (s.correct i).nextLockCount i = s.nextLockCount i := by
  rw [nextLockCount, headGrade_correct, stand_correct]
  rfl

/-- In TRACK an error beyond three lock bands (R99). -/
def LosesLock (s : State) (i : StandNo) : Prop :=
  (s.stand i).loop.mode = .track ∧ 3 * (s.headGrade i).lockBand < (s.speedError i).natAbs

theorem loopTab_of_not_running (h : (s.stand i).loop.activity ≠ .running) : s.loopTab i = s := if_neg h

theorem loopTab_unlocks (hr : (s.stand i).loop.activity = .running) (hu : s.LosesLock i) :
    s.loopTab i = (s.correct i).unlock i := (if_pos hr).trans (if_pos hu)

theorem loopTab_detects (hr : (s.stand i).loop.activity = .running) (hu : ¬ s.LosesLock i) :
    s.loopTab i = (s.correct i).detectLock i (s.speedError i) := (if_pos hr).trans (if_neg hu)

theorem steering_loopTab (hr : (s.stand i).loop.activity = .running) : ((s.loopTab i).stand i).loop.steering =
    (s.tabCorrection i, (s.stand i).loop.reference, (s.stand i).loop.manual) := by
  by_cases hu : s.LosesLock i
  · rw [loopTab_unlocks hr hu, loop_unlock, stand_correct]
    rfl
  · rw [loopTab_detects hr hu, steering_detectLock, stand_correct]
    rfl

/-- The correction moves by half or by a sixteenth of the error and stays within the limit (R97). -/
theorem tabCorrection_eq (s : State) (i : StandNo) :
    let limit : Int := (s.headGrade i).correctionLimit
    let e := s.speedError i
    let moved := (s.stand i).loop.correction + if (s.stand i).loop.mode = .acquire then e.tdiv 2 else e.tdiv 16
    s.tabCorrection i = if moved < -limit then -limit else if limit < moved then limit else moved := by
  unfold tabCorrection corrected clampInt
  cases (s.stand i).loop.mode <;> rfl

/-! ### The ways of the lock at a tab mark -/

theorem loopTab_outside (hr : (s.stand i).loop.activity = .running) (hu : ¬ s.LosesLock i)
    (h : (s.headGrade i).lockBand < (s.speedError i).natAbs) : (s.loopTab i).stand i = { s.stand i with
      loop := { (s.stand i).loop with correction := s.tabCorrection i, lockCount := 0 } } := by
  rw [loopTab_detects hr hu, detectLock_outside (by rwa [headGrade_correct]), stand_modLoop, if_pos rfl, stand_correct]

theorem loopTab_counts (hr : (s.stand i).loop.activity = .running) (hu : ¬ s.LosesLock i)
    (h : (s.speedError i).natAbs ≤ (s.headGrade i).lockBand)
    (hn : s.nextLockCount i < (s.headGrade i).lockCount ∨ (s.stand i).loop.locked = true) :
    (s.loopTab i).stand i = { s.stand i with
      loop := { (s.stand i).loop with correction := s.tabCorrection i, lockCount := s.nextLockCount i } } := by
  have hc := detectLock_counts (s := s.correct i) (i := i) (e := s.speedError i)
  rw [headGrade_correct, nextLockCount_correct, stand_correct] at hc
  rw [loopTab_detects hr hu, hc h hn, stand_modLoop, if_pos rfl, stand_correct]

theorem loopTab_locks (hr : (s.stand i).loop.activity = .running) (hu : ¬ s.LosesLock i)
    (h : (s.speedError i).natAbs ≤ (s.headGrade i).lockBand)
    (hn : (s.headGrade i).lockCount ≤ s.nextLockCount i) (hl : (s.stand i).loop.locked = false) :
    s.loopTab i = ((s.correct i).locking i).lockSet i := by
  have hc := detectLock_locks (s := s.correct i) (i := i) (e := s.speedError i)
  rw [headGrade_correct, nextLockCount_correct, stand_correct] at hc
  rw [loopTab_detects hr hu, hc h hn hl]

/-- The stand when the context hears of LOCKED set at a tab mark. -/
theorem stand_correct_locking (s : State) (i : StandNo) : ((s.correct i).locking i).stand i = { s.stand i with
    loop := { (s.stand i).loop with
      correction := s.tabCorrection i, lockCount := s.nextLockCount i, locked := true, mode := .track }
    events := withEvent (s.stand i).events .locked } := by
  rw [stand_locking, nextLockCount_correct, stand_correct]

theorem correct_locking_own (s : State) (i : StandNo) : OwnChange i s ((s.correct i).locking i) :=
  (modLoop_own s i _).trans (locking_own _ i)

theorem loopTab_raises_locked (hr : (s.stand i).loop.activity = .running) (hu : ¬ s.LosesLock i)
    (h : (s.speedError i).natAbs ≤ (s.headGrade i).lockBand)
    (hn : (s.headGrade i).lockCount ≤ s.nextLockCount i) (hl : (s.stand i).loop.locked = false) :
    ((s.loopTab i).stand i).loop.mode = .track ∧ hasEvent ((s.loopTab i).stand i).events .locked = true := by
  have hy := stand_correct_locking s i
  obtain ⟨a, ha⟩ := loop_lockSet ((s.correct i).locking i) i
  rw [loopTab_locks hr hu h hn hl]
  refine ⟨by rw [ha, hy], hasEvent_lockSet ?_⟩
  rw [hy]
  exact hasEvent_withEvent _ _

theorem loopTab_within (hr : (s.stand i).loop.activity = .running) (hu : ¬ s.LosesLock i)
    (h : (s.speedError i).natAbs ≤ (s.headGrade i).lockBand) :
    ((s.loopTab i).stand i).loop.lockCount = s.nextLockCount i ∧
      ((s.headGrade i).lockCount ≤ s.nextLockCount i → ((s.loopTab i).stand i).loop.locked = true) := by
  have hc := loop_detectLock_within (s := s.correct i) (i := i) (e := s.speedError i)
  rw [headGrade_correct, nextLockCount_correct] at hc
  rw [loopTab_detects hr hu]
  exact hc h

end State

end Machine

end Sys2Proof
end

section
open Sys2Proof.Machine Sys2Proof.Machine.State

/-- Settles O34: the correction moves first; then an unlock is what `stand_unlock_of_needsLock` says of it, a count changes the
loop alone, and LOCKED set is what `lockSet_spec` says of it. -/
theorem loopCorrectsAndLocks : Obligations.LoopCorrectsAndLocks := by
  refine ⟨fun s i h => loopTab_of_not_running h, ?_⟩
  intro s i hr l was now sets clears fires g e moved v n
  have hv : v = now.loop := rfl
  obtain ⟨hcorrection, hreference, hmanual⟩ : v.correction = s.tabCorrection i ∧ v.reference = l.reference ∧
      v.manual = l.manual := by
    simpa only [Loop.steering, Prod.mk.injEq] using steering_loopTab hr
  refine ⟨hcorrection.trans (tabCorrection_eq s i), hreference, hmanual, fun hu => ?_,
    fun hu => ⟨fun hout => ?_, fun hin => ?_⟩⟩
  · let x : State := s.correct i
    have hx : x.stand i = { was with loop := { l with correction := s.tabCorrection i } } := stand_correct s i
    have hnow : now = (x.unlock i).stand i := congrArg (State.stand · i) (loopTab_unlocks hr hu)
    have hloop : v = (x.stand i).loop.unlocked := by rw [← loop_unlock, ← hnow]
    rw [hloop, hnow]
    refine ⟨rfl, rfl, by rw [hx]; rfl, fun hl hc => ?_, fun hq => ?_⟩
    · obtain ⟨horn, hs⟩ := stand_unlock_of_needsLock (s := x) (i := i) (by rw [hx]; exact hl) (by rw [hx]; exact hc)
      rw [hs, hx]
      exact ⟨rfl, rfl⟩
    · rw [stand_unlock_quiet (by rw [hx]; exact hq), hx]
      exact ⟨rfl, rfl⟩
  · have hs : now = _ := loopTab_outside hr hu hout
    rw [hv, hs]
    exact ⟨rfl, rfl, rfl, rfl⟩
  · let y : State := (s.correct i).locking i
    have hy : y.stand i = _ := stand_correct_locking s i
    have own : OwnChange i s y := correct_locking_own s i
    obtain ⟨hother, hset⟩ := lockSet_spec y i
    rw [own.runningGrade_eq (by rw [hy]), own.clock, hy] at hset
    rw [hy] at hother
    have hcounts (h : n < g.lockCount ∨ l.locked = true) : now = _ := loopTab_counts hr hu hin h
    have hlocks (hn : g.lockCount ≤ n) (hl : l.locked = false) : now = (y.lockSet i).stand i :=
      congrArg (State.stand · i) (loopTab_locks hr hu hin hn hl)
    obtain ⟨hcount, hlocked⟩ := loopTab_within hr hu hin
    refine ⟨hcount, hlocked, fun hn => ?_, fun hq => ?_, fun hn hl => ?_⟩
    · rw [hv, hcounts (.inl hn)]
      exact ⟨rfl, rfl⟩
    · by_cases hc : n < g.lockCount ∨ l.locked = true
      · rw [hcounts hc]
      · obtain ⟨hn, hl⟩ := not_or.1 hc
        have hs : ¬ sets := (or_assoc.2 hq).resolve_left hc
        rw [hlocks (Nat.not_lt.1 hn) (Bool.eq_false_iff.2 hl), hother hs, hy]
    · obtain ⟨hmode, hevent⟩ := loopTab_raises_locked hr hu hin hn hl
      refine ⟨hmode, hevent, ?_⟩
      rw [hlocks hn hl]
      refine ⟨fun hs hx => ?_, fun hs hx hf => ?_, fun hs hx hf => ?_⟩ <;>
        obtain ⟨htension, hmatched, hfires⟩ := hset hs
      · exact (htension hx).stops
      · rw [(hmatched hx hf).2]
      · obtain ⟨harms, haborts⟩ := hfires hx hf
        exact ⟨fun q hq => by rw [(harms q hq).2], fun hq => (haborts hq).stops⟩
end

section
/-! SUPPORT. What a command may do to PASTE, KNIFE and the interlock latch: all but the arming and the firing of the paster, the
firing of the knife, the end of a splice, the guard, RESTART and power-on leave each stand no closer to fire than it was (O59). -/

namespace Sys2Proof

namespace Machine

/-! ### One stand -/

namespace Stand

/-- The outputs of a stand are safe: what `State.OutputsSafe` says of each stand. -/
structure OutputsSafe (x : Stand) : Prop where
  asserted : x.out.paste = true ∨ x.out.knife = true → x.ctx.state.pastFire = true ∧ x.out.latch = false
  armed : x.ctx.state = .fireSet → x.out.latch = false

/-- `y` is no closer to fire than `x`: no output is asserted anew, the latch is not set, a splice past fire stays past it, and
FIRE_SET is not entered. -/
structure NoCloserTo (x y : Stand) : Prop where
  paste : y.out.paste = true → x.out.paste = true
  knife : y.out.knife = true → x.out.knife = true
  latch : y.out.latch = true → x.out.latch = true
  pastFire : x.ctx.state.pastFire = true → y.ctx.state.pastFire = true
  fireSet : y.ctx.state = .fireSet → x.ctx.state = .fireSet

/-- What decides whether the outputs are safe. -/
def guarded (x : Stand) : CtxState × Bool × Bool × Bool := (x.ctx.state, x.out.paste, x.out.knife, x.out.latch)

variable {x y z : Stand}

theorem NoCloserTo.refl (x : Stand) : NoCloserTo x x := ⟨id, id, id, id, id⟩

theorem NoCloserTo.trans (h : NoCloserTo x y) (k : NoCloserTo y z) : NoCloserTo x z :=
  ⟨h.paste ∘ k.paste, h.knife ∘ k.knife, h.latch ∘ k.latch, k.pastFire ∘ h.pastFire, h.fireSet ∘ k.fireSet⟩

theorem NoCloserTo.of_guarded (e : y.guarded = x.guarded) : NoCloserTo x y := by
  obtain ⟨hstate, hpaste, hknife, hlatch⟩ : y.ctx.state = x.ctx.state ∧ y.out.paste = x.out.paste ∧
      y.out.knife = x.out.knife ∧ y.out.latch = x.out.latch := by
    simpa only [guarded, Prod.mk.injEq] using e
  constructor
  · rw [hpaste]; exact id
  · rw [hknife]; exact id
  · rw [hlatch]; exact id
  · rw [hstate]; exact id
  · rw [hstate]; exact id

/-- A move of the context from a state not past fire, and not into FIRE_SET. -/
theorem NoCloserTo.of_move (h : x.ctx.state.pastFire = false) (hp : y.out.paste = x.out.paste)
    (hk : y.out.knife = x.out.knife) (hl : y.out.latch = x.out.latch) (hy : y.ctx.state ≠ .fireSet) : NoCloserTo x y where
  paste := by rw [hp]; exact id
  knife := by rw [hk]; exact id
  latch := by rw [hl]; exact id
  pastFire e := by rw [h] at e; cases e
  fireSet e := absurd e hy

theorem OutputsSafe.no_closer (h : x.OutputsSafe) (k : NoCloserTo x y) : y.OutputsSafe := by
  have hlatch (e : x.out.latch = false) : y.out.latch = false := by
    cases hy : y.out.latch with
    | false => rfl
    | true => rw [k.latch hy] at e; cases e
  refine ⟨fun e => ?_, fun e => hlatch (h.armed (k.fireSet e))⟩
  obtain ⟨hfire, hl⟩ := h.asserted (e.imp k.paste k.knife)
  exact ⟨k.pastFire hfire, hlatch hl⟩

/-- With both outputs off, only FIRE_SET asks for a clear latch. -/
theorem outputsSafe_of_off (hp : x.out.paste = false) (hk : x.out.knife = false) (hs : x.ctx.state ≠ .fireSet) :
    x.OutputsSafe where
  asserted e := by rw [hp, hk] at e; simp at e
  armed e := absurd e hs

/-- Past fire a clear latch is all that is asked. -/
theorem outputsSafe_of_latch_clear (hl : x.out.latch = false)
    (hs : x.out.paste = true ∨ x.out.knife = true → x.ctx.state.pastFire = true) : x.OutputsSafe where
  asserted e := ⟨hs e, hl⟩
  armed _ := hl

/-- Before fire both outputs are off. -/
theorem OutputsSafe.off (h : x.OutputsSafe) (hs : x.ctx.state.pastFire = false) :
    x.out.paste = false ∧ x.out.knife = false := by
  have hn : ¬ (x.out.paste = true ∨ x.out.knife = true) := fun e => by
    rw [(h.asserted e).1] at hs
    cases hs
  simpa using hn

theorem pastFire_of_beforeFire {c : CtxState} (h : c.beforeFire = true) : c.pastFire = false := by
  revert h
  cases c <;> decide

theorem pastFire_of_resting {c : CtxState} (h : c.resting = true) : c.pastFire = false := by
  revert h
  cases c <;> decide

theorem not_fireSet_of_resting {c : CtxState} (h : c.resting = true) : c ≠ .fireSet := by
  rintro rfl
  cases h

end Stand

namespace State

/-! ### The part -/

theorem outputsSafe_iff (s : State) : s.OutputsSafe ↔ ∀ i, (s.stand i).OutputsSafe :=
  ⟨fun h i => have ⟨asserted, armed⟩ := h i; ⟨asserted, armed⟩, fun h i => ⟨(h i).asserted, (h i).armed⟩⟩

/-- Every stand of `t` is no closer to fire than in `s`. -/
def NoCloser (s t : State) : Prop := ∀ i, (s.stand i).NoCloserTo (t.stand i)

/-- The step keeps the outputs safe. -/
def SafeKept (s t : State) : Prop := s.OutputsSafe → t.OutputsSafe

theorem NoCloser.refl (s : State) : NoCloser s s := fun _ => .refl _

theorem NoCloser.trans {s t u : State} (h : NoCloser s t) (k : NoCloser t u) : NoCloser s u := fun i => (h i).trans (k i)

theorem NoCloser.safe {s t : State} (h : NoCloser s t) : SafeKept s t := fun hs =>
  (outputsSafe_iff t).2 fun i => ((outputsSafe_iff s).1 hs i).no_closer (h i)

theorem SafeKept.refl (s : State) : SafeKept s s := id

theorem SafeKept.trans {s t u : State} (h : SafeKept s t) (k : SafeKept t u) : SafeKept s u := k ∘ h

theorem NoCloser.of_guarded {s t : State} (h : ∀ i, (t.stand i).guarded = (s.stand i).guarded) : NoCloser s t :=
  fun i => .of_guarded (h i)

/-- An operation of one stand that brings it no closer to fire. -/
theorem OwnChange.noCloser {i : StandNo} {s t : State} (h : OwnChange i s t) (k : (s.stand i).NoCloserTo (t.stand i)) :
    NoCloser s t := fun j => by
  by_cases e : j = i
  · rw [e]
    exact k
  · rw [h.stands j e]
    exact .refl _

theorem OwnChange.noCloser_of_guarded {i : StandNo} {s t : State} (h : OwnChange i s t)
    (k : (t.stand i).guarded = (s.stand i).guarded) : NoCloser s t := h.noCloser (.of_guarded k)

/-- An operation of one stand that keeps that stand's outputs safe. -/
theorem OwnChange.safeKept {i : StandNo} {s t : State} (h : OwnChange i s t)
    (k : (s.stand i).OutputsSafe → (t.stand i).OutputsSafe) : SafeKept s t := fun hs => by
  rw [outputsSafe_iff] at hs ⊢
  intro j
  by_cases e : j = i
  · rw [e]
    exact k (hs i)
  · rw [h.stands j e]
    exact hs j

theorem TxOnly.noCloser {s t : State} (h : TxOnly s t) : NoCloser s t := fun i => by
  rw [h.stand i]
  exact .refl _

theorem modStand_noCloser (s : State) (i : StandNo) (f : Stand → Stand)
    (h : ∀ x, (f x).guarded = x.guarded := by exact fun _ => rfl) : NoCloser s (s.modStand i f) :=
  (modStand_own s i f).noCloser_of_guarded (by rw [stand_modStand, if_pos rfl, h])

theorem modLoop_noCloser (s : State) (i : StandNo) (f : Loop → Loop) : NoCloser s (s.modLoop i f) :=
  modStand_noCloser s i _

/-- A change of a context that leaves its state. -/
theorem modCtx_noCloser (s : State) (i : StandNo) (f : Context → Context)
    (h : ∀ c, (f c).state = c.state := by exact fun _ => rfl) : NoCloser s (s.modCtx i f) :=
  modStand_noCloser s i _ fun x => by simp only [Stand.guarded, h]

/-- A change of an output unit that leaves PASTE, KNIFE and the latch. -/
theorem modOut_noCloser (s : State) (i : StandNo) (f : Output → Output)
    (h : ∀ o, ((f o).paste, (f o).knife, (f o).latch) = (o.paste, o.knife, o.latch) := by exact fun _ => rfl) :
    NoCloser s (s.modOut i f) :=
  modStand_noCloser s i _ fun x => by
    obtain ⟨hp, hk, hl⟩ : (f x.out).paste = x.out.paste ∧ (f x.out).knife = x.out.knife ∧ (f x.out).latch = x.out.latch := by
      simpa only [Prod.mk.injEq] using h x.out
    simp only [Stand.guarded, hp, hk, hl]

/-- An output unit whose outputs fall, or whose latch is cleared. -/
theorem modOut_falls_noCloser (s : State) (i : StandNo) (f : Output → Output)
    (hp : ∀ o, (f o).paste = true → o.paste = true) (hk : ∀ o, (f o).knife = true → o.knife = true)
    (hl : ∀ o, (f o).latch = true → o.latch = true) : NoCloser s (s.modOut i f) :=
  (modOut_own s i f).noCloser (by rw [stand_modOut, if_pos rfl]; exact ⟨hp _, hk _, hl _, id, id⟩)

theorem modPort_noCloser (s : State) (f : Port → Port) : NoCloser s (s.modPort f) := .refl s

theorem setClock_noCloser (s : State) (t : Time) : NoCloser s (s.setClock t) := .refl s

theorem setTracker_noCloser (s : State) (k : SlotNo) (x : Tracker) : NoCloser s (s.setTracker k x) := .refl s

theorem mapTrackers_noCloser (s : State) (f : SlotNo → Tracker → Tracker) : NoCloser s (s.mapTrackers f) := by
  rw [mapTrackers_rest]
  exact .refl s

theorem forStands_noCloser (o : List StandNo) (f : StandNo → State → State) (h : ∀ i x, NoCloser x (f i x)) (s : State) :
    NoCloser s (forStands o f s) :=
  forStands_keeps o f (NoCloser s) (fun i x hx => hx.trans (h i x)) s (.refl s)

theorem raise_noCloser (s : State) (i : StandNo) (k : EventKind) : NoCloser s (s.raise i k) :=
  (raise_own s i k).noCloser_of_guarded (by rw [stand_raise_eq, if_pos rfl]; rfl)

theorem writeOutcome_noCloser (s : State) (i : StandNo) (o : SpliceOutcome) : NoCloser s (s.writeOutcome i o) :=
  (writeOutcome_own s i o).noCloser_of_guarded (by rw [stand_writeOutcome])

theorem stopLoop_noCloser (s : State) (i : StandNo) : NoCloser s (s.stopLoop i) :=
  (stopLoop_own s i).noCloser_of_guarded (by rw [stand_stopLoop_eq, if_pos rfl]; rfl)

theorem setPrewarn_noCloser (s : State) (i : StandNo) (b : Bool) : NoCloser s (s.setPrewarn i b) :=
  (setPrewarn_own s i b).noCloser_of_guarded (by rw [stand_setPrewarn, if_pos rfl]; rfl)

theorem risePrewarn_noCloser (s : State) (i : StandNo) : NoCloser s (s.risePrewarn i) := by
  unfold risePrewarn
  split
  · exact .refl s
  · exact (setPrewarn_noCloser s i true).trans (raise_noCloser _ i _)

theorem clearHeadReady_noCloser (s : State) (i : StandNo) : NoCloser s (s.clearHeadReady i) := modStand_noCloser s i _

/-! ### Moves of a splice -/

/-- The context enters a state other than FIRE_SET, from one not past fire. -/
theorem enterState_noCloser {s : State} {i : StandNo} {c : CtxState} (h : (s.stand i).ctx.state.pastFire = false)
    (hc : c ≠ .fireSet) : NoCloser s (s.enterState i c) := by
  refine (enterState_own s i c).noCloser ?_
  rw [stand_enterState, if_pos rfl]
  exact .of_move h rfl rfl rfl hc

theorem abort_noCloser {s : State} {i : StandNo} (h : (s.stand i).ctx.state.pastFire = false) (c : AbortCause) :
    NoCloser s (s.abort i c) := by
  refine (abort_own s i c).noCloser ?_
  rw [(abort_spec s i c).stand]
  exact .of_move h rfl rfl rfl (by simp)

theorem abortBeforeFire_noCloser (s : State) (i : StandNo) (c : AbortCause) : NoCloser s (s.abortBeforeFire i c) := by
  unfold abortBeforeFire
  split
  · exact abort_noCloser (Stand.pastFire_of_beforeFire ‹_›) c
  · exact .refl s

theorem enterFireWait_noCloser {s : State} {i : StandNo} (h : (s.stand i).ctx.state.pastFire = false) :
    NoCloser s (s.enterFireWait i) := by
  have he : NoCloser s (s.enterState i .fireWait) := enterState_noCloser h (by decide)
  unfold enterFireWait
  dsimp only
  split
  · exact he.trans (abort_noCloser (by rw [state_enterState]; rfl) .noTab)
  · exact he.trans (modCtx_noCloser _ i _)

theorem lockSet_noCloser (s : State) (i : StandNo) : NoCloser s (s.lockSet i) := by
  unfold lockSet enterMatched
  dsimp only
  split
  · rename_i h
    have he : NoCloser s (s.enterState i .matched) := enterState_noCloser (by rw [h]; rfl) (by decide)
    repeat' split
    · exact he.trans (abort_noCloser (by rw [state_enterState]; rfl) .tension)
    · exact he.trans (enterFireWait_noCloser (by rw [state_enterState]; rfl))
    · exact he
  · exact .refl s

/-- The loop has lost its lock: a splice in MATCHED, FIRE_WAIT or FIRE_SET goes back to RUNUP (R70). -/
theorem lockCleared_noCloser (s : State) (i : StandNo) : NoCloser s (s.lockCleared i) := by
  obtain ⟨hstays, hclears⟩ := lockCleared_spec s i
  by_cases h : (s.stand i).ctx.state.needsLock
  · obtain ⟨-, -, hs⟩ := hclears h
    refine (lockCleared_own s i).noCloser ?_
    rw [hs]
    refine .of_move ?_ rfl rfl rfl (by simp)
    rcases h with h | h | h <;> rw [h] <;> rfl
  · rw [hstays h]
    exact .refl s

theorem leaveFireSet_noCloser (s : State) (i : StandNo) : NoCloser s (s.leaveFireSet i) := by
  unfold leaveFireSet
  split
  · rename_i h
    exact (modOut_noCloser s i _).trans (enterState_noCloser (by rw [stand_modOut, if_pos rfl, h]; rfl) (by decide))
  · exact .refl s

theorem announceRunout_noCloser (s : State) (i : StandNo) : NoCloser s (s.announceRunout i) := by
  unfold announceRunout
  split
  case h_1 h | h_2 h | h_3 h | h_4 h => exact abort_noCloser (by rw [h]; rfl) .runout
  case h_5 | h_6 => exact writeOutcome_noCloser s i .runout
  all_goals exact .refl s

theorem runoutCheck_noCloser (s : State) (i : StandNo) : NoCloser s (s.runoutCheck i) := by
  unfold runoutCheck
  dsimp only
  split
  · exact (modStand_noCloser s i (fun x => { x with runoutFired := true })).trans
      ((raise_noCloser _ i _).trans (announceRunout_noCloser _ i))
  · exact .refl s

theorem enterRunUp_noCloser {s : State} {i : StandNo} (h : (s.stand i).ctx.state = .watch) : NoCloser s (s.enterRunUp i) := by
  have hfix (x : State) : NoCloser x (x.fixFresh i) := by
    unfold fixFresh
    split
    · exact .refl x
    · exact modStand_noCloser x i _
  have hreset (x : State) : NoCloser x (x.resetLoop i) := by
    have hkill := (modLoop_noCloser x i fun _ => { Loop.start with activity := .running }).trans
      (killReferences_txOnly _ i).noCloser
    unfold resetLoop
    dsimp only
    split
    · exact hkill.trans ((modPort_noCloser _ _).trans (raise_noCloser _ i _))
    · exact hkill
  exact (enterState_noCloser (c := .runUp) (by rw [h]; rfl) (by decide)).trans <|
    (modCtx_noCloser _ i freshFigures).trans <| (hfix _).trans <| (hreset _).trans <|
    (risePrewarn_noCloser _ i).trans (raise_noCloser _ i .runUpStart)

theorem predict_noCloser {s : State} {i : StandNo} (h : (s.stand i).ctx.state = .watch) : NoCloser s (s.predict i) := by
  have hrise := risePrewarn_noCloser s i
  have hw : ((s.risePrewarn i).stand i).ctx.state = .watch := by
    obtain ⟨o, hs, -⟩ := risePrewarn_stand s i
    rw [hs]
    exact h
  unfold predict
  dsimp only
  repeat' split
  · exact .refl s
  · exact hrise.trans (enterRunUp_noCloser hw)
  · exact hrise
  · exact enterRunUp_noCloser h
  · exact .refl s

/-! ### Settling -/

/-- The context comes to rest from a state not past fire. -/
theorem enterRest_noCloser {s : State} {i : StandNo} (h : (s.stand i).ctx.state.pastFire = false) :
    NoCloser s (s.enterRest i) := by
  obtain ⟨o, hs⟩ := stand_enterRest s i i
  refine (enterRest_own s i).noCloser ?_
  rw [hs, if_pos rfl]
  exact .of_move h rfl rfl rfl (Stand.not_fireSet_of_resting Stand.resting_restingFor)

theorem settle_noCloser (s : State) (i : StandNo) : NoCloser s (s.settle i) := by
  unfold settle
  split
  · rename_i h
    exact enterRest_noCloser (Stand.pastFire_of_resting (Bool.and_eq_true_iff.1 h).1)
  · exact .refl s

/-! ### Reel sensing -/

theorem setChannel_noCloser (s : State) (i : StandNo) (ch : Channel) (c : PulseChannel) :
    NoCloser s (s.setChannel i ch c) := modStand_noCloser s i _ fun x => by cases ch <;> rfl

theorem raiseEnabled_noCloser (s : State) (i : StandNo) (k : EventKind) : NoCloser s (s.raiseEnabled i k) := by
  unfold raiseEnabled
  split
  · exact raise_noCloser s i k
  · exact .refl s

theorem updateChannel_noCloser (s : State) (i : StandNo) (ch : Channel) (c : PulseChannel) :
    NoCloser s (s.updateChannel i ch c) := by
  have hset := setChannel_noCloser s i ch c
  unfold updateChannel
  dsimp only
  split
  · exact hset.trans ((raiseEnabled_noCloser _ i _).trans (abortBeforeFire_noCloser _ i _))
  · exact hset

theorem inputChanges_noCloser (s : State) (i : StandNo) (ch : Channel) (b : Bool) : NoCloser s (s.inputChanges i ch b) := by
  unfold inputChanges
  dsimp only
  split
  · exact .refl s
  split
  · exact setChannel_noCloser s i ch _
  · exact (setChannel_noCloser s i ch _).trans ((raiseEnabled_noCloser _ i _).trans (updateChannel_noCloser _ i ch _))

theorem runPeriod_noCloser (s : State) (i : StandNo) (p : Nat) : NoCloser s (s.runPeriod i p) := by
  have hmeasure : NoCloser s (s.measureRunning i p) := by
    unfold measureRunning
    dsimp only
    repeat' split
    all_goals exact modStand_noCloser s i _
  have hcheck := hmeasure.trans (runoutCheck_noCloser _ i)
  unfold runPeriod
  dsimp only
  split
  · rename_i h
    exact hcheck.trans (enterFireWait_noCloser (by rw [h.1]; rfl))
  · exact hcheck

theorem loopTab_noCloser (s : State) (i : StandNo) : NoCloser s (s.loopTab i) := by
  unfold loopTab unlock detectLock
  dsimp only
  repeat' split
  · exact (modLoop_noCloser s i _).trans ((modLoop_noCloser _ i _).trans (lockCleared_noCloser _ i))
  · exact (modLoop_noCloser s i _).trans (modLoop_noCloser _ i _)
  · exact (modLoop_noCloser s i _).trans <| (modLoop_noCloser _ i _).trans <| (modLoop_noCloser _ i _).trans <|
      (raise_noCloser _ i _).trans (lockSet_noCloser _ i)
  · exact (modLoop_noCloser s i _).trans (modLoop_noCloser _ i _)
  · exact (modLoop_noCloser s i _).trans (modLoop_noCloser _ i _)
  · exact .refl s


theorem contextTab_safeKept (s : State) (i : StandNo) (p : Nat) : SafeKept s (s.contextTab i p) := by
  have hmark : NoCloser s (s.modCtx i fun c => { c with missingTabAt := some (after s.clock (3 * p)) }) :=
    modCtx_noCloser s i _
  unfold contextTab armPaster
  split
  case h_1 h =>
    dsimp only
    split
    · rename_i harm
      have hl : (s.stand i).out.latch = false := by
        simp only [mayArm, stand_modCtx, if_true, Bool.and_eq_true, Bool.not_eq_true'] at harm
        exact harm.1.2
      refine ((modCtx_own s i _).trans ((modOut_own _ i _).trans (enterState_own _ i _))).safeKept fun hs => ?_
      obtain ⟨hpaste, hknife⟩ := hs.off (by rw [h]; rfl)
      simp only [stand_enterState, stand_modOut, stand_modCtx, if_true]
      exact Stand.outputsSafe_of_latch_clear hl (by simp [hpaste, hknife])
    · exact hmark.safe
  case h_2 => exact (hmark.trans (modOut_noCloser _ i _)).safe
  case h_3 => exact .refl s

theorem measureFresh_noCloser (s : State) (i : StandNo) (p : Nat) : NoCloser s (s.measureFresh i p) := by
  unfold measureFresh
  exact modStand_noCloser s i _

theorem handOn_safeKept (s : State) (i : StandNo) (ch : Channel) (p : Nat) (b : Bool) :
    SafeKept s (s.handOn i ch p b) := by
  have hfresh := (measureFresh_noCloser s i p).safe
  unfold handOn freshPeriod
  dsimp only
  repeat' split
  · exact (runPeriod_noCloser s i p).safe
  · exact hfresh.trans ((loopTab_noCloser _ i).safe.trans (contextTab_safeKept _ i p))
  · exact hfresh.trans ((contextTab_safeKept _ i p).trans (loopTab_noCloser _ i).safe)
  · exact .refl s

theorem changeHolds_safeKept (s : State) (i : StandNo) (ch : Channel) (b : Bool) : SafeKept s (s.changeHolds i ch b) := by
  unfold changeHolds
  dsimp only
  repeat' split
  · exact .refl s
  · exact (updateChannel_noCloser s i ch _).safe.trans (handOn_safeKept _ i ch _ b)
  · exact (updateChannel_noCloser s i ch _).safe
  · exact (setChannel_noCloser s i ch _).safe
  · exact .refl s

theorem freshStopped_noCloser (s : State) (i : StandNo) : NoCloser s (s.freshStopped i) := by
  unfold freshStopped
  split
  case h_1 h | h_2 h => exact abort_noCloser (by rw [h]; rfl) .noTab
  case h_3 h => exact (modCtx_noCloser s i _).trans (enterRest_noCloser (by rw [stand_modCtx, if_pos rfl, h]; rfl))
  case h_4 => exact .refl s

theorem channelStops_noCloser (s : State) (i : StandNo) (ch : Channel) : NoCloser s (s.channelStops i ch) := by
  unfold channelStops
  dsimp only
  repeat' split
  · exact setChannel_noCloser s i _ _
  · exact (setChannel_noCloser s i _ _).trans ((modStand_noCloser _ i _).trans (freshStopped_noCloser _ i))
  · exact .refl s

theorem announceExcursion_noCloser (s : State) (i : StandNo) : NoCloser s (s.announceExcursion i) := by
  unfold announceExcursion
  split
  case h_1 h | h_2 h | h_3 h => exact abort_noCloser (by rw [h]; rfl) .tension
  case h_4 | h_5 => exact modCtx_noCloser s i _
  case h_6 => exact .refl s

theorem convert_noCloser (s : State) (code : BitVec 12) : NoCloser s (s.convert code) := by
  have hnext : NoCloser s { s with scanNext := s.scanNext + 1 } := .refl s
  refine hnext.trans ?_
  unfold convert convertDancer
  dsimp only
  split
  · generalize (if insideBand _ code = true then 0 else _) = n
    split
    · exact (modStand_noCloser _ _ _).trans (announceExcursion_noCloser _ _)
    · exact modStand_noCloser _ _ _
  · exact modStand_noCloser _ _ _

/-! ### The timers of a splice -/

theorem setKnife_noCloser (s : State) (i : StandNo) : NoCloser s (s.setKnife i) := by
  unfold setKnife
  dsimp only
  repeat' split
  · exact (modOut_noCloser s i _).trans ((modCtx_noCloser _ i _).trans (raise_noCloser _ i _))
  · exact (modOut_noCloser s i _).trans ((modCtx_noCloser _ i _).trans (raise_noCloser _ i _))
  · exact (modOut_noCloser s i _).trans (modCtx_noCloser _ i _)

/-- PASTE is asserted on entry to PASTING from FIRE_SET, where the latch is clear (R76, R110). -/
theorem firePaster_safeKept {s : State} {i : StandNo} (h : (s.stand i).ctx.state = .fireSet) :
    SafeKept s (s.firePaster i) := by
  have hpaste : SafeKept s ((s.enterState i .pasting).assertPaste i) := by
    refine ((enterState_own s i _).trans (assertPaste_own _ i)).safeKept fun hs => ?_
    unfold assertPaste
    simp only [stand_modOut, stand_enterState, if_true]
    exact Stand.outputsSafe_of_latch_clear (hs.armed h) fun _ => rfl
  unfold firePaster takeFigures
  exact hpaste.trans <| NoCloser.safe <| (modCtx_noCloser _ i _).trans <| (setKnife_noCloser _ i).trans <|
    (modCtx_noCloser _ i _).trans <| (modLoop_noCloser _ i _).trans <| (setPrewarn_noCloser _ i _).trans
      (raise_noCloser _ i _)

theorem pasterEnds_safeKept (s : State) (i : StandNo) : SafeKept s (s.pasterEnds i) := by
  have hoff := (modOut_noCloser s i fun o => { o with pasterAt := none }).safe
  unfold pasterEnds
  dsimp only
  repeat' split
  · rename_i h
    exact hoff.trans (firePaster_safeKept (by rw [stand_modOut, if_pos rfl]; exact h))
  · exact hoff
  · exact .refl s

/-- KNIFE is asserted past fire, with the latch clear (R114, R121). -/
theorem assertKnife_safeKept {s : State} {i : StandNo} (h : (s.stand i).ctx.state.pastFire = true) :
    SafeKept s (s.assertKnife i) := by
  unfold assertKnife
  dsimp only
  split
  · exact .refl s
  · rename_i hl
    refine (modOut_own s i _).safeKept fun _ => ?_
    rw [stand_modOut, if_pos rfl]
    exact Stand.outputsSafe_of_latch_clear (by simpa using hl) fun _ => h

theorem fireKnife_safeKept (s : State) (i : StandNo) : SafeKept s (s.fireKnife i) := by
  have hcut : NoCloser s (s.enterState i .cut) := by
    refine (enterState_own s i .cut).noCloser ?_
    rw [stand_enterState, if_pos rfl]
    exact ⟨id, id, id, fun _ => rfl, nofun⟩
  unfold fireKnife startBrake
  exact hcut.safe.trans <| (assertKnife_safeKept (by rw [state_enterState]; rfl)).trans <| NoCloser.safe <|
    (modOut_noCloser _ i _).trans <| (modCtx_noCloser _ i _).trans (queueDrive_txOnly _ i _).noCloser

theorem knifeEnds_safeKept (s : State) (i : StandNo) : SafeKept s (s.knifeEnds i) := by
  have hoff := (modOut_noCloser s i fun o => { o with knifeAt := none }).safe
  unfold knifeEnds
  dsimp only
  repeat' split
  · exact hoff.trans (fireKnife_safeKept _ i)
  · exact hoff
  · exact .refl s

/-- At the exit from CUT both outputs are forced off (R117). -/
theorem endSplice_safeKept (s : State) (i : StandNo) : SafeKept s (s.endSplice i) := by
  refine (endSplice_own s i).safeKept fun _ => ?_
  obtain ⟨horn, hs⟩ := stand_enterRest ((s.stopLoop i).forceOff i) i i
  rw [endSplice, hs, if_pos rfl]
  unfold forceOff
  simp only [stand_modOut, if_true]
  exact Stand.outputsSafe_of_off rfl rfl (Stand.not_fireSet_of_resting Stand.resting_restingFor)

theorem confirmEnds_safeKept (s : State) (i : StandNo) : SafeKept s (s.confirmEnds i) := by
  have hoff : SafeKept s (s.modCtx i fun c => { c with confirmAt := none }) := (modCtx_noCloser s i _).safe
  have houtcome (x : State) (o : SpliceOutcome) (k : EventKind) : NoCloser x ((x.writeOutcome i o).raise i k) :=
    (writeOutcome_noCloser x i o).trans (raise_noCloser _ i k)
  have hbroken (x : State) : SafeKept x (x.endBroken i) := by
    unfold endBroken breakWeb
    exact ((houtcome x _ _).trans ((modStand_noCloser _ i _).trans (modCtx_noCloser _ i _))).safe.trans
      (endSplice_safeKept _ i)
  have hspliced (x : State) : SafeKept x (x.endSpliced i) := by
    unfold endSpliced swap
    exact ((houtcome x _ _).trans ((modStand_noCloser _ i _).trans (runoutCheck_noCloser _ i))).safe.trans
      (endSplice_safeKept _ i)
  unfold confirmEnds
  dsimp only
  repeat' split
  · exact hoff.trans (hbroken _)
  · exact hoff.trans (hspliced _)
  · exact hoff
  · exact .refl s

theorem missingTabEnds_noCloser (s : State) (i : StandNo) : NoCloser s (s.missingTabEnds i) := by
  have hoff : NoCloser s (s.modCtx i fun c => { c with missingTabAt := none }) := modCtx_noCloser s i _
  unfold missingTabEnds
  dsimp only
  repeat' split
  · rename_i h
    refine hoff.trans (abort_noCloser ?_ .noTab)
    rw [stand_modCtx, if_pos rfl]
    dsimp only
    rcases h with h | h <;> rw [h] <;> rfl
  · exact hoff
  · exact .refl s

theorem stoppingEnds_noCloser (s : State) (i : StandNo) : NoCloser s (s.stoppingEnds i) := by
  have hoff : NoCloser s (s.modCtx i fun c => { c with stoppingAt := none }) := modCtx_noCloser s i _
  unfold stoppingEnds
  dsimp only
  repeat' split
  · rename_i h
    exact hoff.trans (enterRest_noCloser (by rw [stand_modCtx, if_pos rfl, h]; rfl))
  · exact hoff
  · exact .refl s

/-! ### The guard and the ends of the pulses -/

/-- The stand when its splice fails in PASTING (R79): the outputs are off and the context is in STOPPING. -/
theorem stand_failInterlock (s : State) (i : StandNo) : ∃ h : Horn, (s.failInterlock i).stand i = { s.stand i with
    queue := (s.stand i).queue.modifyHead fun r => { r with ready := false }
    ctx := { (s.stand i).ctx with state := .stopping, prewarn := false, stoppingAt := some (s.clock + 15000000) }
    loop := { (s.stand i).loop with activity := .stopped }
    out := { (s.stand i).out with
      paste := false, knife := false, pasteEndAt := none, knifeEndAt := none, knifeAt := none, horn := h } } := by
  unfold failInterlock forceOff
  simp only [stand_modCtx, if_true, stand_setPrewarn, stand_clearHeadReady, stand_enterState, stand_queueDrive,
    stand_stopLoop_eq, stand_writeOutcome, stand_modOut, clock_clearHeadReady, clock_enterState, clock_queueDrive,
    clock_stopLoop, (writeOutcome_own _ i _).clock, clock_modOut]
  exact ⟨_, rfl⟩

/-- A latch that sets has forced the outputs off; what it then does to the context leaves them off, and out of FIRE_SET
(R120, R122). -/
theorem announceLatch_safe {s : State} {i : StandNo} (hp : (s.stand i).out.paste = false)
    (hk : (s.stand i).out.knife = false) : ((s.announceLatch i).stand i).OutputsSafe := by
  unfold announceLatch
  split
  case h_1 | h_2 | h_3 | h_4 =>
    rw [(abort_spec s i .interlock).stand]
    exact Stand.outputsSafe_of_off hp hk nofun
  case h_5 =>
    obtain ⟨horn, hs⟩ := stand_failInterlock s i
    rw [hs]
    exact Stand.outputsSafe_of_off rfl rfl nofun
  all_goals
    rename_i h
    exact Stand.outputsSafe_of_off hp hk (by rw [h]; nofun)

theorem guardOpens_safeKept (s : State) (i : StandNo) : SafeKept s (s.guardOpens i) := by
  have hown := guardOpens_own s i
  unfold guardOpens at hown ⊢
  dsimp only at hown ⊢
  split
  · exact .refl s
  split
  · exact (modOut_noCloser s i _).safe
  · rename_i hopen hlatch
    rw [if_neg hopen, if_neg hlatch] at hown
    exact hown.safeKept fun _ => announceLatch_safe (by simp [forceOff]) (by simp [forceOff])

theorem pulseEnds_noCloser (s : State) (i : StandNo) (now : Time) :
    NoCloser s (s.modOut i fun o => o.pasteEnds now) ∧ NoCloser s (s.modOut i fun o => o.knifePulseEnds now) := by
  unfold Output.pasteEnds Output.knifePulseEnds
  constructor
  all_goals
    refine modOut_falls_noCloser s i _ (fun o => ?_) (fun o => ?_) fun o => ?_
    all_goals split <;> simp

theorem brakeEnds_noCloser (s : State) (i : StandNo) (now : Time) (hold : Nat) :
    NoCloser s (s.modOut i fun o => o.brakeDelayEnds now hold) ∧ NoCloser s (s.modOut i fun o => o.brakeHoldEnds now) := by
  unfold Output.brakeDelayEnds Output.brakeHoldEnds
  constructor
  all_goals
    refine modOut_noCloser s i _ fun o => ?_
    split <;> rfl

/-! ### The part mode -/

theorem goRun_noCloser (s : State) (o : List StandNo) : NoCloser s (s.goRun o) :=
  forStands_noCloser o _ (fun i x => settle_noCloser x i) { s with mode := .run }

theorem goHold_noCloser (s : State) (o : List StandNo) : NoCloser s (s.goHold o) :=
  forStands_noCloser o _ (fun i x => (abortBeforeFire_noCloser x i _).trans (settle_noCloser _ i)) { s with mode := .hold }

theorem goConfig_noCloser (s : State) (o : List StandNo) : NoCloser s (s.goConfig o) := by
  have hfree : NoCloser s ({ s with mode := .config }.mapStands fun _ x => { x with lock := none }) :=
    .of_guarded fun i => by rw [mapStands_stand]; rfl
  exact hfree.trans (forStands_noCloser o _ (fun i x => (modCtx_noCloser x i _).trans (settle_noCloser _ i)) _)

theorem setModeRun_noCloser (s : State) (o : List StandNo) : NoCloser s (s.setModeRun o).state := by
  unfold setModeRun
  repeat' split
  · exact goRun_noCloser s o
  · exact .refl s
  · exact goRun_noCloser s o
  · exact .refl s

theorem setModeHold_noCloser (s : State) (o : List StandNo) : NoCloser s (s.setModeHold o).state := by
  unfold setModeHold
  split
  · exact goHold_noCloser s o
  · exact .refl s
  · exact .refl s

theorem setModeConfig_noCloser (s : State) (o : List StandNo) : NoCloser s (s.setModeConfig o).state := by
  unfold setModeConfig
  repeat' split
  · exact .refl s
  · exact goConfig_noCloser s o
  · exact .refl s
  · exact goConfig_noCloser s o
  · exact .refl s

/-! ### Requests of one stand -/

theorem autoChange_noCloser (s : State) (i : StandNo) (b : Bool) :
    NoCloser s ((s.modCtx i fun c => { c with auto := b }).settle i) :=
  (modCtx_noCloser s i _).trans (settle_noCloser _ i)

theorem autoOn_noCloser (s : State) (i : StandNo) : NoCloser s (s.autoOn i).state := by
  unfold autoOn
  split
  · exact .refl s
  · exact autoChange_noCloser s i true

theorem autoOff_noCloser (s : State) (i : StandNo) : NoCloser s (s.autoOff i).state := by
  unfold autoOff
  split
  · exact .refl s
  · exact autoChange_noCloser s i false

theorem spliceNow_noCloser (s : State) (i : StandNo) : NoCloser s (s.spliceNow i).state := by
  have hearly (x : State) : NoCloser x (x.setEarly i) := modCtx_noCloser x i _
  unfold spliceNow
  split
  case h_1 h =>
    split
    · exact (enterRunUp_noCloser h).trans (hearly _)
    · exact .refl s
  case h_2 => exact hearly s
  case h_3 h => exact (hearly s).trans (enterFireWait_noCloser (by simp [setEarly, h]; rfl))
  all_goals exact .refl s

theorem abortOrder_noCloser (s : State) (i : StandNo) : NoCloser s (s.abortOrder i).state := by
  unfold abortOrder
  split
  case h_1 h | h_2 h | h_3 h | h_4 h => exact abort_noCloser (by rw [h]; rfl) .order
  all_goals exact .refl s

theorem manualOn_noCloser (s : State) (i : StandNo) : NoCloser s (s.manualOn i).state := by
  unfold manualOn
  split
  case h_1 | h_2 =>
    dsimp only [grant]
    split
    · exact .refl s
    · exact modLoop_noCloser s i _
  all_goals exact .refl s

theorem manualOff_noCloser (s : State) (i : StandNo) : NoCloser s (s.manualOff i).state := by
  unfold manualOff
  split
  case h_1 | h_2 =>
    dsimp only [grant]
    split
    · exact modLoop_noCloser s i _
    · exact .refl s
  all_goals exact .refl s

/-- A change of a stand's reels, after which its context settles (R21). -/
theorem reelChange_noCloser (s : State) (i : StandNo) (f : Stand → Stand)
    (h : ∀ x, (f x).guarded = x.guarded := by exact fun _ => rfl) : NoCloser s ((s.modStand i f).settle i) :=
  (modStand_noCloser s i f h).trans (settle_noCloser _ i)

theorem addReel_noCloser (s : State) (i : StandNo) (r : ReelRecord) : NoCloser s (s.addReel i r).state := by
  unfold addReel
  repeat' split
  · exact .refl s
  · exact .refl s
  · exact reelChange_noCloser s i _
  all_goals exact .refl s

theorem dropReel_noCloser (s : State) (i : StandNo) (id : ReelId) : NoCloser s (s.dropReel i id).state := by
  unfold dropReel
  split
  · exact .refl s
  · exact reelChange_noCloser s i _

theorem markReady_noCloser (s : State) (i : StandNo) (id : ReelId) : NoCloser s (s.markReady i id).state := by
  unfold markReady
  repeat' split
  · exact reelChange_noCloser s i _
  all_goals exact .refl s

theorem setRunning_noCloser (s : State) (i : StandNo) (r : RunningReel) (d : Option Nat) :
    NoCloser s (s.setRunning i r d).state := by
  unfold setRunning installRunning
  repeat' split
  · exact .refl s
  · exact .refl s
  · exact (modStand_noCloser s i _).trans ((runoutCheck_noCloser _ i).trans (settle_noCloser _ i))
  all_goals exact .refl s

theorem clearRunning_noCloser (s : State) (i : StandNo) : NoCloser s (s.clearRunning i).state := by
  unfold clearRunning
  split
  · exact reelChange_noCloser s i _
  · exact .refl s

theorem replaceRecord_noCloser (s : State) (i : StandNo) (r : StandRecord) : NoCloser s (s.replaceRecord i r) := by
  have hwrite : NoCloser s (s.withRecord i r) := (modStand_noCloser s i _).trans (mapTrackers_noCloser _ _)
  unfold replaceRecord
  dsimp only
  repeat' split
  · exact hwrite
  · exact hwrite.trans (settle_noCloser _ i)
  · exact hwrite.trans ((modCtx_noCloser _ i _).trans (settle_noCloser _ i))

/-! ### The answers to requests -/

theorem lockedOrder_noCloser (code : Nat) (ok : State → Bool) (act : State → StandNo → Answer)
    (h : ∀ x i, NoCloser x (act x i).state) (f : Frame) (s : State) : NoCloser s (lockedOrder code ok act f s).state :=
  orderSteps_state (.refl s) (needStand_state (.refl s) fun i => needLock_state (.refl s) (h s i))

theorem answerAbort_noCloser (f : Frame) (s : State) : NoCloser s (answerAbort f s).state :=
  orderSteps_state (.refl s) (needStand_state (.refl s) fun i => abortOrder_noCloser s i)

theorem answerPutGrade_noCloser (f : Frame) (s : State) : NoCloser s (answerPutGrade f s).state := by
  refine needLength_state (.refl s) ?_
  unfold putGrade
  repeat' split
  all_goals exact .refl s

theorem answerPutStand_noCloser (f : Frame) (s : State) : NoCloser s (answerPutStand f s).state := by
  refine needLength_state (.refl s) (needStand_state (.refl s) fun i => ?_)
  unfold putStand
  repeat' split
  · exact .refl s
  · exact replaceRecord_noCloser s i _
  · exact .refl s
  · exact .refl s

theorem answerPutLine_noCloser (f : Frame) (s : State) : NoCloser s (answerPutLine f s).state := by
  refine needLength_state (.refl s) ?_
  rw [putLine_eq]
  repeat' split
  · dsimp only [grant]
    rw [withLine_rest]
    exact .refl s
  · exact .refl s
  · exact .refl s

theorem answerSetGroups_noCloser (f : Frame) (s : State) : NoCloser s (answerSetGroups f s).state := by
  refine needLength_state (.refl s) ?_
  unfold setGroups
  repeat' split
  all_goals exact .refl s

theorem answerAddReel_noCloser (f : Frame) (s : State) : NoCloser s (answerAddReel f s).state := by
  refine needLength_state (.refl s) (needStand_state (.refl s) fun i => needLock_state (.refl s) ?_)
  dsimp only
  repeat' split
  · exact .refl s
  · exact addReel_noCloser s i _
  · exact .refl s

theorem answerDropReel_noCloser (f : Frame) (s : State) : NoCloser s (answerDropReel f s).state := by
  refine needLength_state (.refl s) ?_
  dsimp only
  repeat' split
  · exact .refl s
  · exact .refl s
  · exact needLock_state (.refl s) (dropReel_noCloser s _ _)

theorem answerMarkReady_noCloser (f : Frame) (s : State) : NoCloser s (answerMarkReady f s).state :=
  needLength_state (.refl s) (needStand_state (.refl s) fun i => needLock_state (.refl s) (markReady_noCloser s i _))

theorem answerSetRunning_noCloser (f : Frame) (s : State) : NoCloser s (answerSetRunning f s).state := by
  refine needLength_state (.refl s) (needStand_state (.refl s) fun i => needLock_state (.refl s) ?_)
  repeat' split
  · exact clearRunning_noCloser s i
  · exact .refl s
  · exact setRunning_noCloser s i _ _

theorem answerTakeControl_noCloser (f : Frame) (s : State) : NoCloser s (answerTakeControl f s).state := by
  unfold answerTakeControl takeControl
  repeat' split
  · exact .refl s
  · exact .refl s
  · dsimp only [controlAnswer]
    exact modStand_noCloser s _ _
  all_goals exact .refl s

theorem answerGiveControl_noCloser (f : Frame) (s : State) : NoCloser s (answerGiveControl f s).state := by
  unfold answerGiveControl giveControl
  repeat' split
  · exact .refl s
  · exact .refl s
  · exact .refl s
  · dsimp only [controlAnswer]
    exact modStand_noCloser s _ _
  · exact .refl s

/-- A latch is cleared, never set, on request (R123). -/
theorem answerClearInterlock_noCloser (f : Frame) (s : State) : NoCloser s (answerClearInterlock f s).state := by
  refine needLength_state (.refl s) ?_
  split
  · refine needStand_state (.refl s) fun i => ?_
    unfold clearInterlock
    dsimp only
    repeat' split
    · exact .refl s
    · dsimp only [grant]
      exact modOut_falls_noCloser s i _ (fun _ => id) (fun _ => id) fun _ => nofun
    · exact .refl s
  · exact .refl s

theorem answerClearEvents_noCloser (f : Frame) (s : State) : NoCloser s (answerClearEvents f s).state := by
  refine needLength_state (.refl s) ?_
  split
  · refine needLength_state (.refl s) (needStand_state (.refl s) fun i => ?_)
    unfold clearMarks
    split
    · dsimp only [grant]
      exact modStand_noCloser s i _
    · exact .refl s
  · exact .refl s

/-- RESTART sets the latch of an open guard; it is taken in CONFIG alone, where no lawful context is in FIRE_SET (R171, R124,
R90). -/
theorem answerRestart_safeKept (f : Frame) {s : State} (hl : s.ContextsLawful) :
    SafeKept s (answerRestart f s).state := by
  unfold answerRestart
  split
  · rename_i hm
    dsimp only [grant]
    refine fun _ => (outputsSafe_iff _).2 fun i => ?_
    rw [restarted_stand]
    refine Stand.outputsSafe_of_off rfl rfl fun e => ?_
    have hs : (s.stand i).ctx.state = .fireSet := e
    rcases ((contextsLawful_iff s).1 hl i).config hm with h | h <;> rw [h] at hs <;> cases hs
  · exact .refl s

/-! ### The request handler -/

theorem returnSlot_noCloser (s : State) : NoCloser s s.returnSlot := by
  unfold returnSlot
  split
  · exact (modPort_noCloser s _).trans (offer_txOnly _).noCloser
  · exact .refl s

theorem takeFrame_noCloser (s : State) (f : Frame) : NoCloser s (s.takeFrame f) :=
  .of_guarded fun i => by
    rw [takeFrame, refreshLocks, mapStands_stand]; rfl

/-- A request row keeps the outputs safe when its answer does, the contexts being lawful still. -/
theorem handle_safeKept {s : State} (hs : s.ContextsLawful) (t : Time) (takes : Frame → Bool) (ask : Bool)
    {body : Frame → State → Answer} (h : ∀ f x, x.ContextsLawful → SafeKept x (body f x).state) :
    SafeKept s ((s.setClock t).handle takes ask body) := by
  have hlaw : (s.setClock t).ContextsLawful := (setClock_lawKept s t).contexts hs
  have hpop (x : State) : NoCloser x x.popFrame.returnSlot := (modPort_noCloser x _).trans (returnSlot_noCloser _)
  have hpopLaw (x : State) : LawKept x x.popFrame.returnSlot := (modPort_lawKept x _).trans (returnSlot_lawKept _)
  refine (setClock_noCloser s t).safe.trans ?_
  unfold handle
  repeat' split
  · exact .refl _
  · exact (takeFrame_noCloser _ _).safe.trans (h _ _ ((takeFrame_lawKept _ _).contexts hlaw))
  · exact .refl _
  · exact (hpop _).safe
  · exact (hpop _).safe.trans (h _ _ ((hpopLaw _).contexts hlaw))
  · exact .refl _

/-- A request row whose answer brings no stand closer to fire. -/
theorem handle_safeKept_of_noCloser {s : State} (hs : s.ContextsLawful) (t : Time) (takes : Frame → Bool) (ask : Bool)
    {body : Frame → State → Answer} (h : ∀ f x, NoCloser x (body f x).state) :
    SafeKept s ((s.setClock t).handle takes ask body) :=
  handle_safeKept hs t takes ask fun f x _ => (h f x).safe

/-- A request row that only reads. -/
theorem handle_safeKept_of_reads {s : State} (hs : s.ContextsLawful) (t : Time) (takes : Frame → Bool) (ask : Bool)
    {body : Frame → State → Answer} (h : ∀ f x, (body f x).state = x) :
    SafeKept s ((s.setClock t).handle takes ask body) :=
  handle_safeKept_of_noCloser hs t takes ask fun f x => by rw [h]; exact .refl x

theorem discardPartVerb_noCloser (s : State) : NoCloser s s.discardPartVerb := by
  unfold discardPartVerb
  repeat' split
  · exact .refl s
  · exact (modPort_noCloser s _).trans (returnSlot_noCloser _)
  · exact .refl s

/-! ### Line samples and tracker timers -/

theorem tellStands_noCloser (s : State) (k : SlotNo) (o : List StandNo) (f : StandNo → State → State)
    (h : ∀ i x, NoCloser x (f i x)) : NoCloser s (s.tellStands k o f) :=
  forStands_noCloser o _ (fun i x => by
    split
    · exact h i x
    · exact .refl x) s

theorem coastingEnds_noCloser (s : State) (k : SlotNo) (o : List StandNo) : NoCloser s (s.coastingEnds k o) := by
  unfold coastingEnds
  dsimp only
  repeat' split
  · exact (setTracker_noCloser s k _).trans (tellStands_noCloser _ k o _ fun i x => leaveFireSet_noCloser x i)
  · exact setTracker_noCloser s k _
  · exact .refl s

theorem lostEnds_noCloser (s : State) (k : SlotNo) (o : List StandNo) : NoCloser s (s.lostEnds k o) := by
  have htell (x : State) := tellStands_noCloser x k o (fun i s => (s.raise i .trackLost).abortBeforeFire i .trackLost)
    fun i y => (raise_noCloser y i .trackLost).trans (abortBeforeFire_noCloser _ i .trackLost)
  unfold lostEnds
  dsimp only
  split
  · split
    case h_1 | h_2 | h_3 => exact (setTracker_noCloser s k _).trans (htell _)
    all_goals exact setTracker_noCloser s k _
  · exact .refl s

theorem windowEnds_noCloser (s : State) (k : SlotNo) (o : List StandNo) : NoCloser s (s.windowEnds k o) := by
  unfold windowEnds
  dsimp only
  repeat' split
  · exact (setTracker_noCloser s k _).trans (tellStands_noCloser _ k o _ fun i x => raise_noCloser x i _)
  · exact setTracker_noCloser s k _
  · exact .refl s

theorem contextHears_noCloser (s : State) (i : StandNo) (e : SampleEvent) : NoCloser s (s.contextHears i e) := by
  unfold contextHears
  split
  · split
    · exact predict_noCloser ‹_›
    · split
      · exact abortBeforeFire_noCloser s i _
      · exact .refl s
  · exact leaveFireSet_noCloser s i
  all_goals exact .refl s

theorem hearMatter_noCloser (b : State) (p : List Byte) (m : Matter) (s : State) : NoCloser s (hearMatter b p m s) := by
  unfold hearMatter
  dsimp only
  split
  · refine (loopHears_own s m.stand _ _).noCloser_of_guarded ?_
    rw [stand_loopHears]
    rfl
  · exact contextHears_noCloser s _ _

theorem takeSample_noCloser (s : State) (p : List Byte) (o : List Matter) : NoCloser s (s.takeSample p o) := by
  refine (mapTrackers_noCloser s fun k _ => (s.sampleSlot p k).1).trans ?_
  unfold takeSample
  dsimp only
  generalize (s.mapTrackers fun k _ => (s.sampleSlot p k).1) = x
  induction wholeOrder allMatters o generalizing x with
  | nil => exact .refl x
  | cons m l ih => exact (hearMatter_noCloser s p m x).trans (ih _)

/-! ### The port -/

theorem arrivalEnds_noCloser (s : State) (v : Byte) (p : List Byte) (c : Byte) (handOn : Header → State → State)
    (h : ∀ a x, NoCloser x (handOn a x)) : NoCloser s (s.arrivalEnds v p c handOn) := by
  unfold arrivalEnds
  repeat' split
  · exact (modPort_noCloser s _).trans ((modPort_noCloser _ _).trans (h _ _))
  all_goals exact .refl s

theorem handSample_noCloser (p : List Byte) (o : List Matter) (a : Header) (s : State) :
    NoCloser s (handSample p o a s) := by
  unfold handSample
  split
  · exact takeSample_noCloser s p o
  · exact .refl s

theorem handHold_noCloser (o : List StandNo) (a : Header) (s : State) : NoCloser s (handHold o a s) := by
  unfold handHold
  split
  · exact goHold_noCloser s o
  all_goals exact .refl s

theorem requestEnds_noCloser (s : State) (p : List Byte) (c : Byte) : NoCloser s (s.requestEnds p c) := by
  unfold requestEnds
  repeat' split
  all_goals exact .refl s

theorem headerEnds_noCloser (s : State) (h : Header) (c : Byte) : NoCloser s (s.headerEnds h c) := by
  unfold headerEnds
  split <;> exact .refl s

theorem abandonFrame_noCloser (s : State) (l : List Bool) : NoCloser s (s.abandonFrame l) := by
  unfold abandonFrame
  dsimp only
  split <;> exact .refl s

theorem becomesIdle_noCloser (s : State) (l : List Bool) : NoCloser s (s.becomesIdle l) := by
  unfold becomesIdle
  dsimp only
  split <;> exact .refl s

theorem startsReading_noCloser (s : State) : NoCloser s s.startsReading := by
  unfold startsReading
  split <;> exact .refl s

theorem entersStuck_noCloser (s : State) (l : List Bool) (o : List StandNo) : NoCloser s (s.entersStuck l o) := by
  unfold entersStuck
  dsimp only
  split
  · exact .refl s
  · exact (modPort_noCloser s _).trans (forStands_noCloser o _ (fun i x => abortBeforeFire_noCloser x i _) _)

theorem beginsFrame_noCloser (s : State) (r : List Contestant) : NoCloser s (s.beginsFrame r) := by
  unfold beginsFrame
  repeat' split
  all_goals exact .refl s

theorem losesContest_noCloser (s : State) : NoCloser s s.losesContest := by
  unfold losesContest
  repeat' split
  · exact .refl s
  · exact .refl s
  · exact (modPort_noCloser s _).trans (entryLoses_txOnly _).noCloser

theorem referenceOutcome_noCloser (s : State) (i : StandNo) (r : TxOutcome) : NoCloser s (s.referenceOutcome i r) := by
  have hcount (n : Nat) : NoCloser s (s.modLoop i fun l => { l with noAckRun := n }) := modLoop_noCloser s i _
  unfold referenceOutcome
  split
  case h_1 => exact hcount 0
  all_goals
    dsimp only
    split
    · exact (hcount _).trans ((raise_noCloser _ i _).trans (abortBeforeFire_noCloser _ i _))
    · exact hcount _

theorem driveOutcome_noCloser (s : State) (i : StandNo) (r : TxOutcome) : NoCloser s (s.driveOutcome i r) := by
  unfold driveOutcome
  split
  · exact .refl s
  all_goals exact raise_noCloser s i _

theorem handOutcome_noCloser (s : State) (e : TxEntry) (r : TxOutcome) : NoCloser s (s.handOutcome e r) := by
  unfold handOutcome noticeOutcome
  repeat' split
  · exact referenceOutcome_noCloser s _ r
  · exact .refl s
  · exact driveOutcome_noCloser s _ r
  · exact driveOutcome_noCloser s _ r
  all_goals exact .refl s

theorem frameEnds_noCloser (s : State) (e : LineEnd) : NoCloser s (s.frameEnds e) := by
  have hends (x : State) (r : TxOutcome) : NoCloser x (x.entryEnds r) := by
    unfold entryEnds
    split
    · exact .refl x
    · exact (handOutcome_noCloser x _ r).trans ((modPort_noCloser _ _).trans (offer_txOnly _).noCloser)
  unfold frameEnds
  repeat' split
  · exact .refl s
  · exact (modPort_noCloser s _).trans (hends _ _)
  · exact .refl s

/-- Power-on leaves every output off and every context in OFF (R155). -/
theorem poweredOn_safe (s : State) (pins : Pins) : (s.poweredOn pins).OutputsSafe :=
  (outputsSafe_iff _).2 fun i => by
    rw [stand_poweredOn]
    exact Stand.outputsSafe_of_off rfl rfl nofun

/-! ### Every command -/

/-- A command at its local time that brings no stand closer to fire. -/
theorem NoCloser.timed {s u : State} {t : Time} (h : NoCloser (s.setClock t) u) : SafeKept s u := h.safe

/-- Every command keeps the outputs safe, the contexts being lawful. -/
theorem exec_safeKept (c : Instr) {s : State} (hs : s.ContextsLawful) : ∃ u, exec c s = .next u ∧ SafeKept s u := by
  cases c with
  | powerOn pins => exact ⟨_, rfl, fun _ => poweredOn_safe s pins⟩
  | askStatus t => exact ⟨_, rfl, handle_safeKept_of_reads hs t _ _ fun _ _ => rfl⟩
  | askStand t => exact ⟨_, rfl, handle_safeKept_of_reads hs t _ _ answerAskStand_state⟩
  | askGrade t => exact ⟨_, rfl, handle_safeKept_of_reads hs t _ _ answerAskGrade_state⟩
  | askQueue t => exact ⟨_, rfl, handle_safeKept_of_reads hs t _ _ answerAskQueue_state⟩
  | askLog t => exact ⟨_, rfl, handle_safeKept_of_reads hs t _ _ answerAskLog_state⟩
  | askLine t => exact ⟨_, rfl, handle_safeKept_of_reads hs t _ _ fun _ _ => rfl⟩
  | putGrade t => exact ⟨_, rfl, handle_safeKept_of_noCloser hs t _ _ answerPutGrade_noCloser⟩
  | putStand t => exact ⟨_, rfl, handle_safeKept_of_noCloser hs t _ _ answerPutStand_noCloser⟩
  | putLine t => exact ⟨_, rfl, handle_safeKept_of_noCloser hs t _ _ answerPutLine_noCloser⟩
  | setGroups t => exact ⟨_, rfl, handle_safeKept_of_noCloser hs t _ _ answerSetGroups_noCloser⟩
  | addReel t => exact ⟨_, rfl, handle_safeKept_of_noCloser hs t _ _ answerAddReel_noCloser⟩
  | dropReel t => exact ⟨_, rfl, handle_safeKept_of_noCloser hs t _ _ answerDropReel_noCloser⟩
  | markReady t => exact ⟨_, rfl, handle_safeKept_of_noCloser hs t _ _ answerMarkReady_noCloser⟩
  | setRunning t => exact ⟨_, rfl, handle_safeKept_of_noCloser hs t _ _ answerSetRunning_noCloser⟩
  | setModeRun t o =>
    exact ⟨_, rfl, handle_safeKept_of_noCloser hs t _ _ fun f x => setMode_state (.refl x) (setModeRun_noCloser x o)⟩
  | setModeHold t o =>
    exact ⟨_, rfl, handle_safeKept_of_noCloser hs t _ _ fun f x => setMode_state (.refl x) (setModeHold_noCloser x o)⟩
  | setModeConfig t o =>
    exact ⟨_, rfl, handle_safeKept_of_noCloser hs t _ _ fun f x => setMode_state (.refl x) (setModeConfig_noCloser x o)⟩
  | standOrderAutoOn t =>
    exact ⟨_, rfl, handle_safeKept_of_noCloser hs t _ _ (lockedOrder_noCloser 1 _ _ autoOn_noCloser)⟩
  | standOrderAutoOff t =>
    exact ⟨_, rfl, handle_safeKept_of_noCloser hs t _ _ (lockedOrder_noCloser 2 _ _ autoOff_noCloser)⟩
  | standOrderSpliceNow t =>
    exact ⟨_, rfl, handle_safeKept_of_noCloser hs t _ _ (lockedOrder_noCloser 3 _ _ spliceNow_noCloser)⟩
  | standOrderAbort t => exact ⟨_, rfl, handle_safeKept_of_noCloser hs t _ _ answerAbort_noCloser⟩
  | standOrderManualTrackOn t =>
    exact ⟨_, rfl, handle_safeKept_of_noCloser hs t _ _ (lockedOrder_noCloser 5 _ _ manualOn_noCloser)⟩
  | standOrderManualTrackOff t =>
    exact ⟨_, rfl, handle_safeKept_of_noCloser hs t _ _ (lockedOrder_noCloser 6 _ _ manualOff_noCloser)⟩
  | takeControl t => exact ⟨_, rfl, handle_safeKept_of_noCloser hs t _ _ answerTakeControl_noCloser⟩
  | giveControl t => exact ⟨_, rfl, handle_safeKept_of_noCloser hs t _ _ answerGiveControl_noCloser⟩
  | clearLatchInterlock t => exact ⟨_, rfl, handle_safeKept_of_noCloser hs t _ _ answerClearInterlock_noCloser⟩
  | clearLatchEvents t => exact ⟨_, rfl, handle_safeKept_of_noCloser hs t _ _ answerClearEvents_noCloser⟩
  | restart t => exact ⟨_, rfl, handle_safeKept hs t _ _ fun f _ hx => answerRestart_safeKept f hx⟩
  | unknownVerb t => exact ⟨_, rfl, handle_safeKept_of_reads hs t _ _ fun _ _ => rfl⟩
  | partVerbDiscarded t => exact ⟨_, rfl, (discardPartVerb_noCloser (s.setClock t)).timed⟩
  | lineHold t p k o => exact ⟨_, rfl, (arrivalEnds_noCloser (s.setClock t) _ p k _ (handHold_noCloser o)).timed⟩
  | lineSample t p k o => exact ⟨_, rfl, (arrivalEnds_noCloser (s.setClock t) _ p k _ (handSample_noCloser p o)).timed⟩
  | coastingExpiry t k o => exact ⟨_, rfl, (coastingEnds_noCloser (s.setClock t) k o).timed⟩
  | lostExpiry t k o => exact ⟨_, rfl, (lostEnds_noCloser (s.setClock t) k o).timed⟩
  | windowClose t k o => exact ⟨_, rfl, (windowEnds_noCloser (s.setClock t) k o).timed⟩
  | pulseInputChange t i ch b => exact ⟨_, rfl, (inputChanges_noCloser (s.setClock t) i ch b).timed⟩
  | changeAccepted t i ch b => exact ⟨_, rfl, changeHolds_safeKept (s.setClock t) i ch b⟩
  | stoppedTimerExpiry t i ch => exact ⟨_, rfl, (channelStops_noCloser (s.setClock t) i ch).timed⟩
  | conversionCompletion t code => exact ⟨_, rfl, (convert_noCloser (s.setClock t) code).timed⟩
  | guardOpen t i => exact ⟨_, rfl, guardOpens_safeKept (s.setClock t) i⟩
  | guardSafe t i => exact ⟨_, rfl, (modOut_noCloser (s.setClock t) i _).timed⟩
  | missingTabExpiry t i => exact ⟨_, rfl, (missingTabEnds_noCloser (s.setClock t) i).timed⟩
  | pasterTimerExpiry t i => exact ⟨_, rfl, pasterEnds_safeKept (s.setClock t) i⟩
  | knifeTimerExpiry t i => exact ⟨_, rfl, knifeEnds_safeKept (s.setClock t) i⟩
  | confirmTimerExpiry t i => exact ⟨_, rfl, confirmEnds_safeKept (s.setClock t) i⟩
  | stoppingTimerExpiry t i => exact ⟨_, rfl, (stoppingEnds_noCloser (s.setClock t) i).timed⟩
  | pasteEndExpiry t i => exact ⟨_, rfl, (pulseEnds_noCloser (s.setClock t) i t).1.timed⟩
  | knifeEndExpiry t i => exact ⟨_, rfl, (pulseEnds_noCloser (s.setClock t) i t).2.timed⟩
  | brakeDelayExpiry t i => exact ⟨_, rfl, (brakeEnds_noCloser (s.setClock t) i t _).1.timed⟩
  | brakeHoldExpiry t i => exact ⟨_, rfl, (brakeEnds_noCloser (s.setClock t) i t 0).2.timed⟩
  | hornHalfPeriod t i => exact ⟨_, rfl, (modOut_noCloser (s.setClock t) i _).timed⟩
  | prewarnPhase t i => exact ⟨_, rfl, (modOut_noCloser (s.setClock t) i _).timed⟩
  | lockExpiry t i => exact ⟨_, rfl, (modStand_noCloser (s.setClock t) i _).timed⟩
  | requestFrame t p k => exact ⟨_, rfl, (requestEnds_noCloser (s.setClock t) p k).timed⟩
  | transmitBegin m => exact ⟨_, rfl, (beginsFrame_noCloser (s.setClock m.t) m.rivals).timed⟩
  | lostArbitration t => exact ⟨_, rfl, (losesContest_noCloser (s.setClock t)).timed⟩
  | transmitOutcome t e => exact ⟨_, rfl, (frameEnds_noCloser (s.setClock t) e).timed⟩
  | busIdle m => exact ⟨_, rfl, (becomesIdle_noCloser (s.setClock m.t) m.line).timed⟩
  | stuck m o => exact ⟨_, rfl, (entersStuck_noCloser (s.setClock m.t) m.line o).timed⟩
  | startMarkRead t => exact ⟨_, rfl, (startsReading_noCloser (s.setClock t)).timed⟩
  | headerCheckEnd t h k => exact ⟨_, rfl, (headerEnds_noCloser (s.setClock t) h k).timed⟩
  | receptionAbandoned m => exact ⟨_, rfl, (abandonFrame_noCloser (s.setClock m.t) m.line).timed⟩

/-- Every step keeps them; the queue of waiting commands is no output. -/
theorem step_safeKept {s u : State} (hs : s.ContextsLawful) (h : step s = .next u) : SafeKept s u := by
  unfold step at h
  split at h
  · cases h
    exact .refl s
  · rename_i c rest _
    obtain ⟨v, hv, hk⟩ := exec_safeKept c (s := { s with pending := rest }) hs
    rw [hv] at h
    cases h
    exact hk

end State

end Machine

end Sys2Proof
end

section
open Sys2Proof.Machine Sys2Proof.Machine.State

/-- Settles O59: the operations that assert an output, set a latch or enter FIRE_SET each keep the outputs safe by the context's
state; every other brings no stand closer to fire. -/
theorem outputsKeptSafe : Obligations.OutputsKeptSafe := fun _ _ hs hl h => step_safeKept hl h hs
end

section
/-! SUPPORT. CLEAR LATCH with kind interlock: the rows of R123, and the request whose stand byte names one (O22). -/

namespace Sys2Proof

namespace Machine

namespace State

variable {s : State} {i : StandNo} {f : Frame} {n : Byte} {more : List Byte}

theorem takesLatch_interlock (hv : f.verb = 0x64) (hp : f.payload = 0 :: more) : takesLatch 0 f = true := by
  simp [takesLatch, carriesCode, verbClearLatch, hv, hp]

/-- A request of two bytes or more with kind interlock comes down to its stand byte. -/
theorem answerClearInterlock_eq (hp : f.payload = 0 :: n :: more) (x : State) :
    answerClearInterlock f x = needStand n.toNat x fun i => x.clearInterlock i := by
  have h0 : u8 f.payload 0 = 0 := by rw [hp]; rfl
  have h1 : u8 f.payload 1 = n.toNat := by rw [hp]; rfl
  unfold answerClearInterlock
  rw [needLength_long (by rw [hp]; simp), if_pos h0, h1]

theorem answerClearInterlock_outside (hp : f.payload = 0 :: n :: more) (ho : n.toNat < 1 ∨ 6 < n.toNat) (x : State) :
    answerClearInterlock f x = refuse x .badValue := by
  rw [answerClearInterlock_eq hp, needStand_outside (by omega)]

theorem answerClearInterlock_named (hp : f.payload = 0 :: n :: more) (hn : n = BitVec.ofNat 8 (i.val + 1)) (x : State) :
    answerClearInterlock f x = x.clearInterlock i := by
  rw [answerClearInterlock_eq hp, hn, toNat_standByte]
  simp only [needStand, standOf_standNumber]

/-- The latch is cleared. -/
def latchCleared (s : State) (i : StandNo) : State := s.modOut i fun o => { o with latch := false }

theorem clearInterlock_of_safe (hl : (s.stand i).out.latch = true) (hg : (s.stand i).out.guardOpen = false) :
    s.clearInterlock i = grant (s.latchCleared i) := by simp [clearInterlock, latchCleared, hl, hg]

theorem clearInterlock_of_open (hl : (s.stand i).out.latch = true) (hg : (s.stand i).out.guardOpen = true) :
    s.clearInterlock i = refuse s .wrongState := by simp [clearInterlock, hl, hg]

theorem clearInterlock_of_clear (hl : (s.stand i).out.latch = false) : s.clearInterlock i = grant s := by
  simp [clearInterlock, hl]

/-- What the request does, whatever it answers: a set latch whose guard is safe is cleared. -/
theorem clearInterlock_state (s : State) (i : StandNo) : (s.clearInterlock i).state =
    if (s.stand i).out.latch = true ∧ (s.stand i).out.guardOpen = false then s.latchCleared i else s := by
  cases hl : (s.stand i).out.latch with
  | false => simp [clearInterlock_of_clear hl, grant]
  | true =>
    cases hg : (s.stand i).out.guardOpen with
    | false => simp [clearInterlock_of_safe hl hg, grant]
    | true => simp [clearInterlock_of_open hl hg, refuse]

/-- The request addressed to the part alone is answered. -/
theorem exec_clearInterlock (h : s.CanTake f) (t : Time) (hv : f.verb = 0x64) (hp : f.payload = 0 :: n :: more) {u : State}
    {r : Result} (hb : answerClearInterlock f (s.taking t f) = ⟨u, r, []⟩) :
    exec (.clearLatchInterlock t) s = .next (u.replied f r []) :=
  exec_answers h rfl (takesLatch_interlock hv hp) hb

/-- The request addressed to a group or to 255 has its effect without a reply. -/
theorem exec_clearInterlock_group (h : s.port.rx.head? = some f) (hg : 240 ≤ f.target.toNat)
    (hs : s.port.handlerSlot = false) (t : Time) (hv : f.verb = 0x64) (hp : f.payload = 0 :: n :: more) :
    exec (.clearLatchInterlock t) s = .next (answerClearInterlock f (s.setClock t).popFrame).state :=
  congrArg Host.Outcome.next <| handle_group h (by simpa [Frame.individual] using hg) hs t _ false _
    (takesLatch_interlock hv hp)

end State

end Machine

end Sys2Proof
end

section
open Sys2Proof Sys2Proof.Machine Sys2Proof.Machine.State

/-- Settles O22: past the stand byte the four rows of R123 are decided by the latch and the guard input, which the taking of the
frame leaves. -/
theorem clearInterlockAnswers : Obligations.ClearInterlockAnswers := by
  intro s t f n more hv hp cleared
  refine ⟨fun h => ?_, fun h hgroup hslot => ?_⟩
  · intro x
    have houts (i : StandNo) : (x.stand i).out = (s.stand i).out := by rw [stand_taking]
    refine ⟨fun ho => exec_clearInterlock h t hv hp (answerClearInterlock_outside hp ho x), fun i hn => ?_⟩
    have answers {u : State} {r : Result} (hb : x.clearInterlock i = ⟨u, r, []⟩) :
        exec (.clearLatchInterlock t) s = .next (u.replied f r []) :=
      exec_clearInterlock h t hv hp ((answerClearInterlock_named hp hn x).trans hb)
    rw [← houts i]
    exact ⟨fun hl hg => answers (clearInterlock_of_safe hl hg), fun hl hg => answers (clearInterlock_of_open hl hg),
      fun hl => answers (clearInterlock_of_clear hl)⟩
  · intro x
    have hexec := exec_clearInterlock_group h hgroup hslot t hv hp
    refine ⟨fun ho => ?_, fun i hn => ?_⟩
    · rw [hexec, answerClearInterlock_outside hp ho]
      rfl
    · rw [hexec, answerClearInterlock_named hp hn, clearInterlock_state]
      rfl
end

section
/-! SUPPORT. The paster delay, and what a tab mark arms (O37). -/

namespace Sys2Proof

namespace Machine

namespace State

variable {s : State} {i : StandNo}

/-! ### What a reading of a stand's head and tracker hangs on -/

theorem OwnChange.trackerOf_eq {u : State} (h : OwnChange i s u) (hr : (u.stand i).record = (s.stand i).record) :
    u.trackerOf i = s.trackerOf i := by
  unfold trackerOf tracker
  rw [hr, h.trackers]

theorem OwnChange.headGrade_eq {u : State} (h : OwnChange i s u) (hq : (u.stand i).queue = (s.stand i).queue) :
    u.headGrade i = s.headGrade i := by
  unfold headGrade head grade
  rw [hq, h.grades]

theorem headGrade_of_head {r : ReelRecord} (h : (s.stand i).queue.head? = some r) : s.headGrade i = s.grade r.grade := by
  unfold headGrade head
  rw [h]

/-! ### The paster delay (R109) -/

theorem tabOffset_of_head {r : ReelRecord} (h : (s.stand i).queue.head? = some r) :
    s.tabOffset i = r.tab.getD (s.grade r.grade).defaultTab := by
  unfold tabOffset head
  rw [h]

/-- The delay as R109 words it, before it is read as a natural number: at least 0 and below the period. -/
theorem pasterDelay_eq (s : State) (i : StandNo) {p : Nat} (hp : 0 < p) :
    (s.pasterDelay i p : Int) = ((((s.stand i).record.sensorToNip + s.tabOffset i) % 1000 * p / 1000 : Nat) -
      (s.stand i).record.pasterLatency : Int) % (p : Int) :=
  Int.toNat_of_nonneg (Int.emod_nonneg _ (by omega))

theorem pasterDelay_lt (s : State) (i : StandNo) {p : Nat} (hp : 0 < p) : s.pasterDelay i p < p := by
  have hlt := Int.emod_lt_of_pos ((((s.stand i).record.sensorToNip + s.tabOffset i) % 1000 * p / 1000 : Nat) -
      (s.stand i).record.pasterLatency : Int) (b := (p : Int)) (by omega)
  have := pasterDelay_eq s i hp
  omega

theorem pasterDelay_modCtx (s : State) (i : StandNo) (f : Context → Context) (p : Nat) :
    (s.modCtx i f).pasterDelay i p = s.pasterDelay i p := by
  unfold pasterDelay tabOffset head
  rw [stand_modCtx, if_pos rfl]
  rfl

/-! ### What a tab mark arms (R72 to R74, R110) -/

/-- The missing-tab timer is re-armed by a tab mark of this period (R72). -/
def tabHeard (s : State) (i : StandNo) (p : Nat) : State :=
  s.modCtx i fun x => { x with missingTabAt := some (s.clock + BitVec.ofNat 32 (3 * p)) }

theorem stand_tabHeard (s : State) (i : StandNo) (p : Nat) : (s.tabHeard i p).stand i = { s.stand i with
    ctx := { (s.stand i).ctx with missingTabAt := some (s.clock + BitVec.ofNat 32 (3 * p)) } } := by
  rw [tabHeard, stand_modCtx, if_pos rfl]

theorem stand_armPaster_tabHeard (s : State) (i : StandNo) (p : Nat) :
    ((s.tabHeard i p).armPaster i p).stand i = { s.stand i with
      ctx := { (s.stand i).ctx with missingTabAt := some (s.clock + BitVec.ofNat 32 (3 * p)) }
      out := { (s.stand i).out with pasterAt := some (s.clock + BitVec.ofNat 32 (s.pasterDelay i p)) } } := by
  have hd : (s.tabHeard i p).pasterDelay i p = s.pasterDelay i p := pasterDelay_modCtx s i _ p
  unfold armPaster
  dsimp only
  rw [stand_modOut, if_pos rfl, stand_tabHeard, hd]
  rfl

/-- The arming conditions, which the re-arming of the missing-tab timer leaves (R73). -/
theorem mayArm_tabHeard (s : State) (i : StandNo) (p : Nat) : (s.tabHeard i p).mayArm i = true ↔
    (s.stand i).loop.locked = true ∧ (s.trackerOf i).state = .tracking ∧ (s.stand i).out.latch = false ∧
      500 ≤ (s.trackerOf i).v := by
  have ht : (s.tabHeard i p).trackerOf i = s.trackerOf i :=
    (modCtx_own s i _).trackerOf_eq (by rw [stand_modCtx, if_pos rfl])
  unfold mayArm
  rw [ht, stand_tabHeard]
  simp [and_assoc]

theorem contextTab_arms (hs : (s.stand i).ctx.state = .fireWait) {p : Nat} (ha : (s.tabHeard i p).mayArm i = true) :
    s.contextTab i p = ((s.tabHeard i p).armPaster i p).enterState i .fireSet := by
  unfold contextTab
  rw [hs]
  exact if_pos ha

theorem contextTab_waits (hs : (s.stand i).ctx.state = .fireWait) {p : Nat} (ha : ¬ (s.tabHeard i p).mayArm i = true) :
    s.contextTab i p = s.tabHeard i p := by
  unfold contextTab
  rw [hs]
  exact if_neg ha

theorem contextTab_rearms (hs : (s.stand i).ctx.state = .fireSet) (p : Nat) :
    s.contextTab i p = (s.tabHeard i p).armPaster i p := by
  unfold contextTab
  rw [hs]
  rfl

theorem contextTab_elsewhere (hw : (s.stand i).ctx.state ≠ .fireWait) (hs : (s.stand i).ctx.state ≠ .fireSet) (p : Nat) :
    s.contextTab i p = s := by
  unfold contextTab
  split
  · exact absurd ‹_› hw
  · exact absurd ‹_› hs
  · rfl

/-- A tab mark in FIRE_WAIT that arms is the write of its stand, in FIRE_SET with the paster timer armed. -/
theorem contextTab_arms_eq (hs : (s.stand i).ctx.state = .fireWait) {p : Nat} (ha : (s.tabHeard i p).mayArm i = true) :
    ∃ h : Horn, h.pattern = .continuous ∧ s.contextTab i p = s.setStand i { s.stand i with
      ctx := { (s.stand i).ctx with missingTabAt := some (s.clock + BitVec.ofNat 32 (3 * p)), state := .fireSet }
      out := { (s.stand i).out with pasterAt := some (s.clock + BitVec.ofNat 32 (s.pasterDelay i p)), horn := h } } := by
  refine ⟨_, pattern_chosenHorn { s.stand i with
    ctx := { (s.stand i).ctx with missingTabAt := some (s.clock + BitVec.ofNat 32 (3 * p)), state := .fireSet }
    out := { (s.stand i).out with pasterAt := some (s.clock + BitVec.ofNat 32 (s.pasterDelay i p)) } } s.clock, ?_⟩
  have he := contextTab_arms hs ha
  rw [(contextTab_own s i p).eq_setStand (by simp [he, tabHeard, armPaster]) (by simp [he, tabHeard, armPaster])
    (by simp [he, tabHeard, armPaster]), he, stand_enterState, if_pos rfl, stand_armPaster_tabHeard]
  rfl

theorem contextTab_rearms_eq (hs : (s.stand i).ctx.state = .fireSet) (p : Nat) :
    s.contextTab i p = s.setStand i { s.stand i with
      ctx := { (s.stand i).ctx with missingTabAt := some (s.clock + BitVec.ofNat 32 (3 * p)) }
      out := { (s.stand i).out with pasterAt := some (s.clock + BitVec.ofNat 32 (s.pasterDelay i p)) } } := by
  have he := contextTab_rearms hs p
  rw [(contextTab_own s i p).eq_setStand (by rw [he]; rfl) (by rw [he]; rfl) (by rw [he]; rfl), he,
    stand_armPaster_tabHeard]

end State

end Machine

end Sys2Proof
end

section
open Sys2Proof.Machine Sys2Proof.Machine.State

/-- Settles O37: the delay is a remainder modulo the period, and the tab mark acts by the context's state and the conditions of
R73. -/
theorem pasterDelayAndArming : Obligations.PasterDelayAndArming := by
  intro s i r p hr hp tab u d ctx armed arms
  have hpos : 0 < p := by omega
  have hd := pasterDelay_eq s i hpos
  have htab : s.tabOffset i = tab := by
    rw [tabOffset_of_head hr]
    simp only [tab]
    cases r.tab <;> rfl
  rw [htab] at hd
  have harms := mayArm_tabHeard s i p
  refine ⟨pasterDelay_lt s i hpos, hd, fun hs ha => contextTab_arms_eq hs (harms.2 ha), fun hs ha => ?_,
    fun hs => contextTab_rearms_eq hs p, fun hw hs => contextTab_elsewhere hw hs p⟩
  rw [contextTab_waits hs (mt harms.1 ha)]
  rfl
end

section
/-! SUPPORT. The knife delay with its clamp, and what its computation writes (O38). -/

namespace Sys2Proof

namespace Machine

namespace State

variable {s : State} {i : StandNo}

/-- The raw delay as R112 words it, while the web moves. -/
theorem rawKnifeDelay_eq (hv : 0 < (s.trackerOf i).v) : s.rawKnifeDelay i =
    (s.stand i).record.pasterLatency +
      (((s.headGrade i).tailLength + (s.stand i).record.knifePath) * 1000000 / (s.trackerOf i).v : Nat) -
      (s.stand i).record.knifeLatency := by
  unfold rawKnifeDelay
  dsimp only
  rw [quotient_pos hv]

/-- The clamp of R112. -/
theorem knifeDelay_eq (s : State) (i : StandNo) : s.knifeDelay i =
    if s.rawKnifeDelay i < 0 then 0 else if 1000000 < s.rawKnifeDelay i then 1000000 else (s.rawKnifeDelay i).toNat := by
  unfold knifeDelay clampInt
  repeat' split
  all_goals rfl

/-- The raw delay hangs on the stand's record and head, the grades and the tracker alone. -/
theorem OwnChange.rawKnifeDelay_of_own {u : State} (h : OwnChange i s u) (hr : (u.stand i).record = (s.stand i).record)
    (hq : (u.stand i).queue = (s.stand i).queue) : u.rawKnifeDelay i = s.rawKnifeDelay i := by
  unfold rawKnifeDelay
  rw [h.headGrade_eq hq, h.trackerOf_eq hr, hr]

theorem hasEvent_latched_of_has {e : EventSet} {k : EventKind} (h : hasEvent e k = true) (ks : List EventKind) :
    hasEvent (latched e ks) k = true := by
  induction ks generalizing e with
  | nil => exact h
  | cons j ks ih => exact ih (hasEvent_withEvent_of_has h j)

theorem hasEvent_latched (e : EventSet) {k : EventKind} {ks : List EventKind} (h : k ∈ ks) :
    hasEvent (latched e ks) k = true := by
  induction ks generalizing e with
  | nil => cases h
  | cons j ks ih =>
    rcases List.mem_cons.1 h with rfl | h
    · exact hasEvent_latched_of_has (hasEvent_withEvent e k) ks
    · exact ih (withEvent e j) h

/-- The events that the flags of a clamped delay latch (R113). -/
def tailEvents (raw : Int) : List EventKind :=
  if raw < 0 then [.tailLong] else if 1000000 < raw then [.tailShort] else []

/-- The knife timer is armed, the tail flags are handed over and their events latched (R112 to R114). -/
theorem stand_setKnife (s : State) (i : StandNo) : (s.setKnife i).stand i = { s.stand i with
    ctx := { (s.stand i).ctx with
      tailLong := decide (s.rawKnifeDelay i < 0)
      tailShort := decide (1000000 < s.rawKnifeDelay i) }
    out := { (s.stand i).out with knifeAt := some (s.clock + BitVec.ofNat 32 (s.knifeDelay i)) }
    events := latched (s.stand i).events (tailEvents (s.rawKnifeDelay i)) } := by
  unfold setKnife tailEvents
  simp only [decide_eq_true_eq]
  by_cases hlong : s.rawKnifeDelay i < 0
  · simp [hlong, latched, after]
  · by_cases hshort : 1000000 < s.rawKnifeDelay i <;> simp [hlong, hshort, latched, after]

end State

end Machine

end Sys2Proof
end

section
open Sys2Proof.Machine Sys2Proof.Machine.State

/-- Settles O38: the three cases of the clamp, which the tail flags repeat. -/
theorem knifeDelayClamped : Obligations.KnifeDelayClamped := by
  intro s i r hr hv k v raw u used
  have hraw : s.rawKnifeDelay i = raw := by rw [rawKnifeDelay_eq hv, headGrade_of_head hr]; rfl
  have hused : used = if raw < 0 then 0 else if 1000000 < raw then 1000000 else raw.toNat := hraw ▸ knifeDelay_eq s i
  have hu : u.stand i = _ := stand_setKnife s i
  rw [hraw] at hu
  rw [hu]
  refine ⟨?_, fun h => ⟨?_, ?_⟩, fun h h' => ⟨?_, ?_⟩, fun h => ⟨?_, ?_⟩, rfl⟩
  · rw [hused]
    split
    · omega
    · split <;> omega
  · rw [hused, if_pos h]
  · exact ⟨decide_eq_true h, decide_eq_false (by omega)⟩
  · rw [hused, if_neg (by omega), if_neg (by omega)]
    omega
  · exact ⟨decide_eq_false (by omega), decide_eq_false (by omega)⟩
  · rw [hused, if_neg (by omega), if_pos h]
  · exact ⟨decide_eq_false (by omega), decide_eq_true h⟩
end

section
/-! SUPPORT. The paster fires (O39). -/

namespace Sys2Proof

namespace Machine

namespace State

variable {s : State} {i : StandNo}

/-- The context of a stand when the paster has fired on it (R76). -/
def firedCtx (s : State) (i : StandNo) : Context :=
  { (s.stand i).ctx with
    state := .pasting
    vFire := (s.trackerOf i).v
    dRunFire := (s.stand i).dRun
    eFire := ((s.trackerOf i).v : Int) - (s.stand i).vFresh
    joint := s.jointPosition i
    tailLong := decide (s.rawKnifeDelay i < 0)
    tailShort := decide (1000000 < s.rawKnifeDelay i)
    missingTabAt := none
    excursion := false
    prewarn := false }

/-- PASTE is asserted on entry to PASTING and the fire figures are taken, before the knife delay is computed. -/
def pasting (s : State) (i : StandNo) : State := ((s.enterState i .pasting).assertPaste i).takeFigures i

theorem pasting_own (s : State) (i : StandNo) : OwnChange i s (s.pasting i) :=
  (enterState_own s i _).trans ((assertPaste_own _ i).trans (takeFigures_own _ i))

theorem OwnChange.jointPosition_eq {u : State} (h : OwnChange i s u) (hr : (u.stand i).record = (s.stand i).record) :
    u.jointPosition i = s.jointPosition i := by
  unfold jointPosition
  rw [h.trackerOf_eq hr, hr, h.clock]

theorem stand_assertPaste (s : State) (i : StandNo) : (s.assertPaste i).stand i = { s.stand i with
    out := { (s.stand i).out with
      paste := true
      pasteEndAt := some (s.clock + BitVec.ofNat 32 ((s.stand i).record.pasteHold * 1000)) } } := by
  rw [assertPaste, stand_modOut, if_pos rfl]
  rfl

theorem stand_pasting (s : State) (i : StandNo) : ∃ h : Horn, (s.pasting i).stand i = { s.stand i with
    ctx := { (s.stand i).ctx with
      state := .pasting
      vFire := (s.trackerOf i).v
      dRunFire := (s.stand i).dRun
      eFire := ((s.trackerOf i).v : Int) - (s.stand i).vFresh
      joint := s.jointPosition i }
    out := { (s.stand i).out with
      paste := true
      pasteEndAt := some (s.clock + BitVec.ofNat 32 ((s.stand i).record.pasteHold * 1000))
      horn := h } } := by
  have hown := (enterState_own s i .pasting).trans (assertPaste_own (s.enterState i .pasting) i)
  have hx := stand_assertPaste (s.enterState i .pasting) i
  rw [stand_enterState, if_pos rfl, clock_enterState] at hx
  unfold pasting takeFigures
  dsimp only
  rw [stand_modCtx, if_pos rfl, hown.trackerOf_eq (by rw [hx]), hown.jointPosition_eq (by rw [hx]), hx]
  exact ⟨_, rfl⟩

theorem log_setKnife (s : State) (i : StandNo) : (s.setKnife i).log = s.log := by
  unfold setKnife
  dsimp only
  repeat' split
  all_goals simp

theorem log_firePaster (s : State) (i : StandNo) : (s.firePaster i).log = s.log := by
  unfold firePaster
  simp [log_setKnife, takeFigures, assertPaste]

/-- The stand when the paster has fired (R76, R110 to R115). -/
theorem stand_firePaster (s : State) (i : StandNo) : ∃ h : Horn, h.pattern = .continuous ∧
    (s.firePaster i).stand i = { s.stand i with
      ctx := s.firedCtx i
      loop := { (s.stand i).loop with activity := .frozen }
      out := { (s.stand i).out with
        paste := true
        pasteEndAt := some (s.clock + BitVec.ofNat 32 ((s.stand i).record.pasteHold * 1000))
        knifeAt := some (s.clock + BitVec.ofNat 32 (s.knifeDelay i))
        horn := h }
      events := latched (s.stand i).events (tailEvents (s.rawKnifeDelay i) ++ [.fired]) } := by
  obtain ⟨horn, hx⟩ := stand_pasting s i
  have hown := pasting_own s i
  have hraw := hown.rawKnifeDelay_of_own (by rw [hx]) (by rw [hx])
  have hk := stand_setKnife (s.pasting i) i
  rw [knifeDelay_eq, hraw, ← knifeDelay_eq, hown.clock, hx] at hk
  have he : s.firePaster i = (((((s.pasting i).setKnife i).modCtx i fun x =>
      { x with missingTabAt := none, excursion := false }).modLoop i fun l =>
      { l with activity := .frozen }).setPrewarn i false).raise i .fired := rfl
  rw [he, stand_raise_eq, if_pos rfl, stand_setPrewarn, if_pos rfl, stand_modLoop, if_pos rfl, stand_modCtx, if_pos rfl, hk]
  rw [← latched_append]
  exact ⟨_, pattern_chosenHorn _ _, rfl⟩

theorem pasterEnds_fires (h : (s.stand i).out.pasterAt = some s.clock) (hs : (s.stand i).ctx.state = .fireSet) :
    s.pasterEnds i = (s.modOut i fun o => { o with pasterAt := none }).firePaster i := by
  unfold pasterEnds
  dsimp only
  rw [if_pos (due_of_armed h), if_pos hs]

end State

end Machine

end Sys2Proof
end

section
open Sys2Proof.Machine Sys2Proof.Machine.State

/-- Settles O39: the armed timer comes due in FIRE_SET, and the paster fires. -/
theorem pasterFires : Obligations.PasterFires := by
  intro s t i hp hs k r raw used
  let y : State := (s.setClock t).modOut i fun o => { o with pasterAt := none }
  have hy : y.stand i = { s.stand i with out := { (s.stand i).out with pasterAt := none } } := by
    rw [stand_modOut, if_pos rfl]
    rfl
  have he := pasterEnds_fires (s := s.setClock t) hp hs
  have hown := pasterEnds_own (s.setClock t) i
  have hclock : OwnChange i (s.setClock t) y := modOut_own _ i _
  have hraw : y.rawKnifeDelay i = s.rawKnifeDelay i := hclock.rawKnifeDelay_of_own (by rw [hy]; rfl) (by rw [hy]; rfl)
  have hused : y.knifeDelay i = s.knifeDelay i := by rw [knifeDelay_eq, hraw, ← knifeDelay_eq]
  have hctx : y.firedCtx i = (s.setClock t).firedCtx i := by
    unfold firedCtx
    rw [hraw, hclock.trackerOf_eq (by rw [hy]; rfl), hclock.jointPosition_eq (by rw [hy]; rfl), hy]
    rfl
  obtain ⟨horn, hcont, hst⟩ := stand_firePaster y i
  rw [← he, hctx, hraw, hused, hy] at hst
  have hmoving (hv : 0 < k.v) : s.rawKnifeDelay i = raw := rawKnifeDelay_eq hv
  refine ⟨_, rfl, hown.afterClock, hown.clock, by rw [he, log_firePaster]; rfl, ?_⟩
  rw [hst]
  refine ⟨rfl, rfl, rfl, rfl, fun hv => ?_, nofun, rfl, hcont, rfl, ?_, rfl, rfl⟩
  · rw [knifeDelay_eq, hmoving hv]
    refine ⟨rfl, ?_, ?_, fun hlong => ?_, fun hshort => ?_⟩
    · show decide (s.rawKnifeDelay i < 0) = _
      rw [hmoving hv]
    · show decide (1000000 < s.rawKnifeDelay i) = _
      rw [hmoving hv]
    · exact hasEvent_latched _ (by simp [tailEvents, hlong])
    · exact hasEvent_latched _ (by simp [tailEvents, hshort, show ¬ raw < 0 by omega])
  · exact hasEvent_latched _ (by simp)
end

section
/-! SUPPORT. The record and the notice of an outcome past fire, and a splice that fails on the latch (O43). -/

namespace Sys2Proof

namespace Machine

/-- The outcomes reached past the paster, which form a notice (R132). -/
def SpliceOutcome.PastFire (o : SpliceOutcome) : Prop := o = .spliced ∨ o = .breakSuspect ∨ o = .failedInterlock

namespace State

variable {s u : State} {i : StandNo} {o : SpliceOutcome}

/-! ### The record and the notice of an outcome past fire (R92, R132) -/

theorem makeRecord_fired (s : State) (i : StandNo) (h : o.PastFire) : s.makeRecord i o = s.firedRecord i o := by
  unfold makeRecord firedRecord runningId headId head reelIds
  rcases h with rfl | rfl | rfl <;> cases (s.stand i).running <;> cases (s.stand i).queue.head? <;> simp

/-- The log holds the record written, up to its NOTICE_UNACKED mark. -/
theorem writeOutcome_records (s : State) (i : StandNo) (o : SpliceOutcome) :
    ∃ r ∈ (s.writeOutcome i o).log, r.seq = s.nextSeq ∧ { r with noticeUnacked := false } = s.makeRecord i o := by
  obtain ⟨f, hlog, -⟩ := writeOutcome_log s i o
  have hnewest : s.makeRecord i o ∈ newest 48 (s.log ++ [s.makeRecord i o]) := by
    rw [← newest_append]
    simp
  refine ⟨_, hlog ▸ List.mem_map_of_mem hnewest, ?_⟩
  split <;> exact ⟨rfl, rfl⟩

/-- The notice of an outcome past fire goes to the line master station as it stands. -/
theorem writeOutcome_notifies (s : State) (i : StandNo) (h : o.PastFire) : (s.writeOutcome i o).NoticeGiven
    ⟨i, s.line.lineMaster, s.nextSeq, (s.stand i).ctx.joint, (s.stand i).ctx.vFire, (reelIds (s.stand i)).2, o⟩ := by
  rw [(writeOutcome_eq s i o).1 h, makeRecord_fired s i h]
  exact sendNotice_given _ _

/-! ### Orders and notices through the moves that leave the port -/

/-- A RELEASE on its way stays so while the port and the stand's record last. -/
theorem DriveOrdered.release_of_port (h : s.DriveOrdered i .release) (hp : u.port = s.port)
    (hr : (u.stand i).record = (s.stand i).record) : u.DriveOrdered i .release := by
  unfold DriveOrdered at h ⊢
  rw [hp, hr]
  exact h

/-! ### A splice that fails on the latch (R79) -/

/-- The outputs are forced off and the knife timer disarmed, before the outcome is written. -/
def failing (s : State) (i : StandNo) : State := (s.forceOff i).modOut i fun o => { o with knifeAt := none }

/-- The loop has stopped and RELEASE is ordered, before the context moves. -/
def failed (s : State) (i : StandNo) : State :=
  (((s.failing i).writeOutcome i .failedInterlock).stopLoop i).queueDrive i .release

theorem failInterlock_eq (s : State) (i : StandNo) : s.failInterlock i =
    ((((s.failed i).enterState i .stopping).clearHeadReady i).setPrewarn i false).modCtx i fun x =>
      { x with stoppingAt := some (after (((s.failed i).enterState i .stopping).clearHeadReady i).clock
        Config.stoppingDelay) } := rfl

theorem log_failInterlock (s : State) (i : StandNo) :
    (s.failInterlock i).log = ((s.failing i).writeOutcome i .failedInterlock).log := by
  rw [failInterlock_eq]
  simp [failed]

theorem nextSeq_failInterlock (s : State) (i : StandNo) : (s.failInterlock i).nextSeq = s.nextSeq + 1 := by
  obtain ⟨-, -, hseq⟩ := writeOutcome_log (s.failing i) i .failedInterlock
  have hlast : (s.failInterlock i).nextSeq = ((s.failing i).writeOutcome i .failedInterlock).nextSeq := by
    rw [failInterlock_eq]
    simp [failed]
  exact hlast.trans hseq

theorem port_failInterlock (s : State) (i : StandNo) : (s.failInterlock i).port = (s.failed i).port := by
  rw [failInterlock_eq]
  simp

theorem stand_failing (s : State) (i : StandNo) : (s.failing i).stand i = { s.stand i with out := { (s.stand i).out with
    paste := false, knife := false, pasteEndAt := none, knifeEndAt := none, knifeAt := none } } := by
  simp [failing, forceOff]

theorem failInterlock_releases (s : State) (i : StandNo) : (s.failInterlock i).DriveOrdered i .release := by
  refine (queueDrive_ordered _ i .release).release_of_port (port_failInterlock s i) ?_
  obtain ⟨horn, hs⟩ := stand_failInterlock s i
  rw [hs]
  simp [stand_queueDrive, stand_writeOutcome, stand_failing]

/-- The record of the failure and its notice (R79, R92, R132). -/
theorem failInterlock_records (s : State) (i : StandNo) :
    (s.failInterlock i).NoticeGiven ⟨i, s.line.lineMaster, s.nextSeq, (s.stand i).ctx.joint, (s.stand i).ctx.vFire,
      (reelIds (s.stand i)).2, .failedInterlock⟩ ∧
    ∃ r ∈ (s.failInterlock i).log, r.seq = s.nextSeq ∧
      { r with noticeUnacked := false } = s.firedRecord i .failedInterlock := by
  have hpast : SpliceOutcome.failedInterlock.PastFire := .inr (.inr rfl)
  have hs := stand_failing s i
  constructor
  · have hcarries : CarriesNotices ((s.failing i).writeOutcome i .failedInterlock) (s.failInterlock i) :=
      (stopLoop_carries _ i).trans ((queueDrive_carries _ i .release).trans (.ofPort (port_failInterlock s i)))
    have hgiven := writeOutcome_notifies (s.failing i) i hpast
    rw [hs] at hgiven
    exact hcarries _ hgiven
  · have hrecord : (s.failing i).makeRecord i .failedInterlock = s.firedRecord i .failedInterlock := by
      rw [makeRecord_fired _ i hpast]
      unfold firedRecord
      rw [hs]
      rfl
    rw [log_failInterlock, ← hrecord]
    exact writeOutcome_records (s.failing i) i .failedInterlock

/-! ### The guard input (R120, R122) -/

/-- An output unit whose latch has set. -/
def latchSet (o : Output) : Output :=
  { o with guardOpen := true, latch := true, paste := false, knife := false, pasteEndAt := none, knifeEndAt := none }

/-- The latch has set and INTERLOCK is raised, before the context hears of it. -/
def latching (s : State) (i : StandNo) : State := (s.modOut i latchSet).raise i .interlock

theorem latching_own (s : State) (i : StandNo) : OwnChange i s (s.latching i) :=
  (modOut_own s i _).trans (raise_own _ i _)

theorem stand_latching (s : State) (i : StandNo) : (s.latching i).stand i = { s.stand i with
    out := latchSet (s.stand i).out, events := withEvent (s.stand i).events .interlock } := by
  simp [latching]

theorem modOut_modOut (s : State) (i : StandNo) (f g : Output → Output) :
    (s.modOut i f).modOut i g = s.modOut i fun o => g (f o) := modStand_modStand s i _ _

theorem guardOpens_of_latched (hg : (s.stand i).out.guardOpen = false) (hl : (s.stand i).out.latch = true) :
    s.guardOpens i = s.modOut i fun o => { o with guardOpen := true } := by
  simp [guardOpens, hg, hl]

theorem guardOpens_latches (hg : (s.stand i).out.guardOpen = false) (hl : (s.stand i).out.latch = false) :
    s.guardOpens i = (s.latching i).announceLatch i := by
  have hset : (s.modOut i fun o => { o with guardOpen := true, latch := true }).forceOff i = s.modOut i latchSet := by
    unfold forceOff
    exact modOut_modOut s i _ _
  unfold guardOpens latching
  dsimp only
  rw [hg, hl, hset]
  rfl

theorem announceLatch_aborts (h : (s.stand i).ctx.state.beforeFire = true) : s.announceLatch i = s.abort i .interlock := by
  unfold announceLatch
  split
  case h_1 | h_2 | h_3 | h_4 => rfl
  all_goals
    rename_i hc
    rw [hc] at h
    cases h

theorem announceLatch_fails (h : (s.stand i).ctx.state = .pasting) : s.announceLatch i = s.failInterlock i := by
  unfold announceLatch
  rw [h]

theorem announceLatch_elsewhere (hb : (s.stand i).ctx.state.beforeFire = false) (hp : (s.stand i).ctx.state ≠ .pasting) :
    s.announceLatch i = s := by
  unfold announceLatch
  split
  case h_1 h | h_2 h | h_3 h | h_4 h => rw [h] at hb; cases hb
  case h_5 h => exact absurd h hp
  all_goals rfl

/-- The latch sets before fire: an abort with INTERLOCK raised at it (R122, R83). -/
theorem latching_aborts (s : State) (i : StandNo) :
    AbortedBy i .interlock [.interlock] (s.modOut i latchSet) ((s.latching i).abort i .interlock) :=
  (abort_spec (s.latching i) i .interlock).after (raise_own _ i _)
    (by rw [stand_latching, stand_modOut, if_pos rfl]; rfl) (by simp [latching]) (by simp [latching])

end State

end Machine

end Sys2Proof
end

section
open Sys2Proof.Machine Sys2Proof.Machine.State

/-- Settles O43: a clear latch sets and forces the outputs off, and what the context then does is decided by its state. -/
theorem guardSetsLatch : Obligations.GuardSetsLatch := by
  intro s t i x y
  refine ⟨rfl, fun hg hl => congrArg Host.Outcome.next (guardOpens_of_latched (s := s.setClock t) hg hl), fun hg hl => ?_⟩
  let z : State := (s.setClock t).latching i
  have hz : z.stand i = { y with events := withEvent (s.stand i).events .interlock } := stand_latching (s.setClock t) i
  have hlog : z.log = s.log := by simp [z, latching]
  have hseq : z.nextSeq = s.nextSeq := by simp [z, latching]
  have hown : OwnChange i (s.setClock t) z := latching_own _ i
  have he : (s.setClock t).guardOpens i = z.announceLatch i := guardOpens_latches (s := s.setClock t) hg hl
  have hopen : exec (.guardOpen t i) s = .next (z.announceLatch i) := congrArg Host.Outcome.next he
  have hkeeps : KeepsOthers i s (z.announceLatch i) := he ▸ (guardOpens_own (s.setClock t) i).afterClock
  have hstate : (z.stand i).ctx.state = (s.stand i).ctx.state := by rw [hz]
  refine ⟨fun hb => ⟨_, hopen, ?_⟩, fun hp => ⟨_, hopen, hkeeps, ?_⟩, fun hb hp => ⟨_, hopen, hkeeps, ?_⟩⟩
  · rw [announceLatch_aborts (by rw [hstate]; exact hb)]
    exact latching_aborts (s.setClock t) i
  · rw [announceLatch_fails (hstate.trans hp)]
    obtain ⟨horn, hst⟩ := stand_failInterlock z i
    obtain ⟨hnotice, hrecord⟩ := failInterlock_records z i
    have hline : z.line = s.line := hown.line
    have hfired : z.firedRecord i .failedInterlock = x.firedRecord i .failedInterlock := by
      unfold firedRecord
      rw [hz, hseq, hown.clock]
      rfl
    rw [hz, hline, hseq] at hnotice
    rw [hseq, hfired] at hrecord
    have hnext : (z.failInterlock i).nextSeq = s.nextSeq + 1 := by rw [nextSeq_failInterlock, hseq]
    rw [hz, hown.clock] at hst
    refine ⟨by rw [hst]; rfl, by rw [hst], by rw [hst], by rw [hst], by rw [hst], ?_, hnext, failInterlock_releases z i,
      hnotice, hrecord⟩
    rw [hst]
    exact hasEvent_withEvent _ _
  · rw [announceLatch_elsewhere (by rw [hstate]; exact hb) (by rw [hstate]; exact hp)]
    exact ⟨hlog, hz⟩
end

section
/-! SUPPORT. Which commands write the splice log, and that every one of them keeps its ring and its numbers (O60). -/

namespace Sys2Proof

namespace Machine

/-! ### The numbers of a list of records (R130) -/

/-- The records are numbered consecutively modulo 65,536, the newest being one below `n`. -/
def NumberedTo (n : SeqNo) (l : List SpliceRecord) : Prop :=
  ∀ k (h : k < l.length), l[k].seq = n - BitVec.ofNat 16 (l.length - k)

section

variable {n : SeqNo} {l : List SpliceRecord}

/-- The record that carries the next number joins as the newest. -/
theorem NumberedTo.append (h : NumberedTo n l) {r : SpliceRecord} (hr : r.seq = n) : NumberedTo (n + 1) (l ++ [r]) := by
  intro k hk
  rw [List.length_append, List.length_singleton] at hk ⊢
  have hback : n + 1 - BitVec.ofNat 16 (l.length + 1 - k) = n - BitVec.ofNat 16 (l.length - k) := by
    rw [show l.length + 1 - k = l.length - k + 1 by omega, BitVec.ofNat_add]
    bv_omega
  rw [hback]
  by_cases hl : k < l.length
  · rw [List.getElem_append_left hl]
    exact h k hl
  · obtain rfl : k = l.length := by omega
    simpa using hr

/-- The oldest records leave. -/
theorem NumberedTo.drop (h : NumberedTo n l) (d : Nat) : NumberedTo n (l.drop d) := by
  intro k hk
  rw [List.length_drop] at hk ⊢
  rw [List.getElem_drop, h (d + k) (by omega), Nat.sub_sub]

/-- A change of the records that leaves their numbers. -/
theorem NumberedTo.map (h : NumberedTo n l) {f : SpliceRecord → SpliceRecord} (hf : ∀ r, (f r).seq = r.seq) :
    NumberedTo n (l.map f) := by
  intro k hk
  rw [List.length_map] at hk ⊢
  rw [List.getElem_map, hf]
  exact h k hk

end

namespace State

/-! ### The log of the part -/

/-- The step from `s` to `t` keeps the splice log lawful. -/
def LogKept (s t : State) : Prop := s.LogLawful → t.LogLawful

/-- What the laws of the log read: the ring, and the next sequence number. -/
def ledger (s : State) : List SpliceRecord × SeqNo := (s.log, s.nextSeq)

theorem logLawful_iff (s : State) : s.LogLawful ↔ s.log.length ≤ 48 ∧ NumberedTo s.nextSeq s.log := Iff.rfl

theorem LogKept.refl (s : State) : LogKept s s := id

theorem LogKept.trans {s t u : State} (h : LogKept s t) (k : LogKept t u) : LogKept s u := k ∘ h

theorem LogKept.of_ledger {s t : State} (h : t.ledger = s.ledger) : LogKept s t := by
  obtain ⟨hlog, hseq⟩ := Prod.mk.inj h
  intro hs
  rw [logLawful_iff, hlog, hseq]
  exact hs

/-- A change of the records that leaves their numbers keeps the log lawful. -/
theorem LogKept.of_marks {s t : State} {f : SpliceRecord → SpliceRecord} (hf : ∀ r, (f r).seq = r.seq)
    (hlog : t.log = s.log.map f) (hseq : t.nextSeq = s.nextSeq) : LogKept s t := by
  rintro ⟨hlen, hnum⟩
  rw [logLawful_iff, hlog, hseq, List.length_map]
  exact ⟨hlen, NumberedTo.map hnum hf⟩

/-- A record that takes the next number joins a ring of 48, and the number rises (R130). -/
theorem LogKept.of_record {s t : State} {r : SpliceRecord} (hr : r.seq = s.nextSeq)
    (hlog : t.log = newest 48 (s.log ++ [r])) (hseq : t.nextSeq = s.nextSeq + 1) : LogKept s t := by
  rintro ⟨-, hnum⟩
  rw [logLawful_iff, hlog, hseq]
  refine ⟨?_, (NumberedTo.append hnum hr).drop _⟩
  rw [newest, List.length_drop]
  omega

theorem seq_marked (f : SpliceRecord → Bool) (r : SpliceRecord) :
    (if f r then { r with noticeUnacked := true } else r).seq = r.seq := by split <;> rfl

theorem TxOnly.logKept {s t : State} (h : TxOnly s t) : LogKept s t :=
  .of_ledger (by rw [ledger, h.log, h.nextSeq]; rfl)

theorem modStand_logKept (s : State) (i : StandNo) (f : Stand → Stand) : LogKept s (s.modStand i f) := .of_ledger rfl

theorem modCtx_logKept (s : State) (i : StandNo) (f : Context → Context) : LogKept s (s.modCtx i f) := .of_ledger rfl

theorem modLoop_logKept (s : State) (i : StandNo) (f : Loop → Loop) : LogKept s (s.modLoop i f) := .of_ledger rfl

theorem modOut_logKept (s : State) (i : StandNo) (f : Output → Output) : LogKept s (s.modOut i f) := .of_ledger rfl

theorem modPort_logKept (s : State) (f : Port → Port) : LogKept s (s.modPort f) := .of_ledger rfl

theorem setTracker_logKept (s : State) (k : SlotNo) (x : Tracker) : LogKept s (s.setTracker k x) := .of_ledger rfl

theorem mapTrackers_logKept (s : State) (f : SlotNo → Tracker → Tracker) : LogKept s (s.mapTrackers f) :=
  .of_ledger (by rw [ledger, mapTrackers_rest, ledger])

theorem mapStands_logKept (s : State) (f : StandNo → Stand → Stand) : LogKept s (s.mapStands f) :=
  .of_ledger (by rw [ledger, mapStands_rest, ledger])

theorem forStands_logKept (o : List StandNo) (f : StandNo → State → State) (h : ∀ i x, LogKept x (f i x)) (s : State) :
    LogKept s (forStands o f s) :=
  forStands_keeps o f (LogKept s) (fun i x hx => hx.trans (h i x)) s (.refl s)

theorem markUnacked_logKept (s : State) (n : SeqNo) : LogKept s (s.markUnacked n) :=
  .of_marks (f := fun r => if r.seq = n then { r with noticeUnacked := true } else r) (fun r => by split <;> rfl) rfl rfl

/-- The writing of an outcome keeps the log lawful, whatever becomes of its notice (R130, R134). -/
theorem writeOutcome_logKept (s : State) (i : StandNo) (o : SpliceOutcome) : LogKept s (s.writeOutcome i o) := by
  obtain ⟨f, hlog, hseq⟩ := writeOutcome_log s i o
  have hrecord : LogKept s (s.logRecord (s.makeRecord i o)) := .of_record rfl (newest_append _ _) rfl
  have hmarks : LogKept (s.logRecord (s.makeRecord i o)) (s.writeOutcome i o) :=
    .of_marks (seq_marked f) (hlog.trans (congrArg (List.map _) (newest_append _ _).symm)) hseq
  exact hrecord.trans hmarks

/-! ### Moves of a splice -/

theorem raise_logKept (s : State) (i : StandNo) (k : EventKind) : LogKept s (s.raise i k) := .of_ledger (by simp [ledger])

theorem enterState_logKept (s : State) (i : StandNo) (c : CtxState) : LogKept s (s.enterState i c) :=
  .of_ledger (by simp [ledger])

theorem setPrewarn_logKept (s : State) (i : StandNo) (b : Bool) : LogKept s (s.setPrewarn i b) :=
  .of_ledger (by simp [ledger])

theorem stopLoop_logKept (s : State) (i : StandNo) : LogKept s (s.stopLoop i) := .of_ledger (by simp [ledger])

theorem enterRest_logKept (s : State) (i : StandNo) : LogKept s (s.enterRest i) := .of_ledger (by simp [ledger])

theorem settle_logKept (s : State) (i : StandNo) : LogKept s (s.settle i) := .of_ledger (by simp [ledger])

theorem risePrewarn_logKept (s : State) (i : StandNo) : LogKept s (s.risePrewarn i) :=
  .of_ledger (by rw [ledger, (log_risePrewarn s i).1, (log_risePrewarn s i).2]; rfl)

/-- An abort writes one record (R84). -/
theorem abort_logKept (s : State) (i : StandNo) (c : AbortCause) : LogKept s (s.abort i c) :=
  .of_record rfl (abort_spec s i c).log (abort_spec s i c).nextSeq

theorem abortBeforeFire_logKept (s : State) (i : StandNo) (c : AbortCause) : LogKept s (s.abortBeforeFire i c) := by
  unfold abortBeforeFire
  split
  · exact abort_logKept s i c
  · exact .refl s

theorem enterFireWait_logKept (s : State) (i : StandNo) : LogKept s (s.enterFireWait i) := by
  have henter := enterState_logKept s i .fireWait
  unfold enterFireWait
  dsimp only
  split
  · exact henter.trans (abort_logKept _ i _)
  · exact henter.trans (modCtx_logKept _ i _)

theorem lockSet_logKept (s : State) (i : StandNo) : LogKept s (s.lockSet i) := by
  have henter := enterState_logKept s i .matched
  unfold lockSet enterMatched
  dsimp only
  repeat' split
  · exact henter.trans (abort_logKept _ i _)
  · exact henter.trans (enterFireWait_logKept _ i)
  · exact henter
  · exact .refl s

theorem lockCleared_logKept (s : State) (i : StandNo) : LogKept s (s.lockCleared i) := by
  have hback : LogKept s (((s.modOut i fun o => { o with pasterAt := none }).modCtx i
      fun x => { x with missingTabAt := none }).enterState i .runUp) :=
    (modOut_logKept s i _).trans ((modCtx_logKept _ i _).trans (enterState_logKept _ i _))
  unfold lockCleared
  split
  · exact hback
  · exact hback
  · exact hback
  · exact .refl s

theorem leaveFireSet_logKept (s : State) (i : StandNo) : LogKept s (s.leaveFireSet i) := by
  unfold leaveFireSet
  split
  · exact (modOut_logKept s i _).trans (enterState_logKept _ i _)
  · exact .refl s

/-- A runout aborts a splice before fire, writes its record in WATCH and NO_REEL, and else writes none (R83, R87). -/
theorem announceRunout_logKept (s : State) (i : StandNo) : LogKept s (s.announceRunout i) := by
  unfold announceRunout
  split
  case h_1 | h_2 | h_3 | h_4 => exact abort_logKept s i _
  case h_5 | h_6 => exact writeOutcome_logKept s i _
  all_goals exact .refl s

theorem runoutCheck_logKept (s : State) (i : StandNo) : LogKept s (s.runoutCheck i) := by
  unfold runoutCheck
  dsimp only
  split
  · exact (modStand_logKept s i _).trans ((raise_logKept _ i _).trans (announceRunout_logKept _ i))
  · exact .refl s

theorem fixFresh_logKept (s : State) (i : StandNo) : LogKept s (s.fixFresh i) := by
  unfold fixFresh
  split
  · exact .refl s
  · exact modStand_logKept s i _

theorem resetLoop_logKept (s : State) (i : StandNo) : LogKept s (s.resetLoop i) := by
  have hkill := (modLoop_logKept s i fun _ => { Loop.start with activity := .running }).trans
    (killReferences_txOnly _ i).logKept
  unfold resetLoop
  dsimp only
  split
  · exact hkill.trans ((modPort_logKept _ _).trans (raise_logKept _ i _))
  · exact hkill

theorem enterRunUp_logKept (s : State) (i : StandNo) : LogKept s (s.enterRunUp i) :=
  (enterState_logKept s i .runUp).trans <| (modCtx_logKept _ i freshFigures).trans <| (fixFresh_logKept _ i).trans <|
    (resetLoop_logKept _ i).trans <| (risePrewarn_logKept _ i).trans (raise_logKept _ i .runUpStart)

theorem failInterlock_logKept (s : State) (i : StandNo) : LogKept s (s.failInterlock i) := by
  have hwrite := writeOutcome_logKept (s.failing i) i .failedInterlock
  have hseq : (s.failInterlock i).nextSeq = ((s.failing i).writeOutcome i .failedInterlock).nextSeq := by
    rw [failInterlock_eq]
    simp [failed]
  exact LogKept.trans (t := s.failing i) (.of_ledger rfl) <| hwrite.trans
    (.of_ledger (by rw [ledger, log_failInterlock, hseq]; rfl))

/-! ### Line samples and tracker timers -/

theorem predict_logKept (s : State) (i : StandNo) : LogKept s (s.predict i) := by
  have hrise := risePrewarn_logKept s i
  unfold predict
  dsimp only
  repeat' split
  · exact .refl s
  · exact hrise.trans (enterRunUp_logKept _ i)
  · exact hrise
  · exact enterRunUp_logKept s i
  · exact .refl s

theorem placeReference_logKept (s : State) (i : StandNo) (v : Nat) : LogKept s (s.placeReference i v) := by
  unfold placeReference
  repeat' split
  · exact .of_ledger rfl
  · exact .of_ledger rfl
  · exact .refl s

theorem loopHears_logKept (s : State) (i : StandNo) (e : SampleEvent) (b : Bool) : LogKept s (s.loopHears i e b) := by
  unfold loopHears
  repeat' split
  · exact placeReference_logKept s i _
  all_goals exact .refl s

theorem contextHears_logKept (s : State) (i : StandNo) (e : SampleEvent) : LogKept s (s.contextHears i e) := by
  unfold contextHears
  repeat' split
  · exact predict_logKept s i
  · exact abortBeforeFire_logKept s i _
  · exact .refl s
  · exact leaveFireSet_logKept s i
  all_goals exact .refl s

theorem hearMatter_logKept (b : State) (p : List Byte) (m : Matter) (s : State) : LogKept s (hearMatter b p m s) := by
  unfold hearMatter
  dsimp only
  split
  · exact loopHears_logKept s _ _ _
  · exact contextHears_logKept s _ _

theorem takeSample_logKept (s : State) (p : List Byte) (o : List Matter) : LogKept s (s.takeSample p o) := by
  unfold takeSample
  dsimp only
  refine (mapTrackers_logKept s fun k _ => (s.sampleSlot p k).1).trans ?_
  generalize (s.mapTrackers fun k _ => (s.sampleSlot p k).1) = x
  induction wholeOrder allMatters o generalizing x with
  | nil => exact .refl x
  | cons m l ih => exact (hearMatter_logKept s p m x).trans (ih _)

theorem tellStands_logKept (s : State) (k : SlotNo) (o : List StandNo) (f : StandNo → State → State)
    (h : ∀ i x, LogKept x (f i x)) : LogKept s (s.tellStands k o f) :=
  forStands_logKept o _ (fun i x => by
    split
    · exact h i x
    · exact .refl x) s

theorem coastingEnds_logKept (s : State) (k : SlotNo) (o : List StandNo) : LogKept s (s.coastingEnds k o) := by
  unfold coastingEnds
  dsimp only
  repeat' split
  · exact (setTracker_logKept s k _).trans (tellStands_logKept _ k o _ fun i x => leaveFireSet_logKept x i)
  · exact setTracker_logKept s k _
  · exact .refl s

theorem lostEnds_logKept (s : State) (k : SlotNo) (o : List StandNo) : LogKept s (s.lostEnds k o) := by
  have htold (x : State) : LogKept x (x.tellStands k o fun i s => (s.raise i .trackLost).abortBeforeFire i .trackLost) :=
    tellStands_logKept x k o _ fun i y => (raise_logKept y i _).trans (abortBeforeFire_logKept _ i _)
  unfold lostEnds
  dsimp only
  repeat' split
  · exact (setTracker_logKept s k _).trans (htold _)
  · exact (setTracker_logKept s k _).trans (htold _)
  · exact (setTracker_logKept s k _).trans (htold _)
  · exact setTracker_logKept s k _
  · exact setTracker_logKept s k _
  · exact .refl s

theorem windowEnds_logKept (s : State) (k : SlotNo) (o : List StandNo) : LogKept s (s.windowEnds k o) := by
  unfold windowEnds
  dsimp only
  repeat' split
  · exact (setTracker_logKept s k _).trans (tellStands_logKept _ k o _ fun i x => raise_logKept x i _)
  · exact setTracker_logKept s k _
  · exact .refl s

/-! ### Reel sensing -/

theorem setChannel_logKept (s : State) (i : StandNo) (ch : Channel) (c : PulseChannel) :
    LogKept s (s.setChannel i ch c) := modStand_logKept s i _

theorem raiseEnabled_logKept (s : State) (i : StandNo) (k : EventKind) : LogKept s (s.raiseEnabled i k) :=
  .of_ledger (by simp [ledger])

theorem updateChannel_logKept (s : State) (i : StandNo) (ch : Channel) (c : PulseChannel) :
    LogKept s (s.updateChannel i ch c) := by
  unfold updateChannel
  dsimp only
  split
  · exact (setChannel_logKept s i ch c).trans ((raiseEnabled_logKept _ i _).trans (abortBeforeFire_logKept _ i _))
  · exact setChannel_logKept s i ch c

theorem inputChanges_logKept (s : State) (i : StandNo) (ch : Channel) (b : Bool) : LogKept s (s.inputChanges i ch b) := by
  unfold inputChanges
  dsimp only
  split
  · exact .refl s
  split
  · exact setChannel_logKept s i ch _
  · exact (setChannel_logKept s i ch _).trans ((raiseEnabled_logKept _ i _).trans (updateChannel_logKept _ i ch _))

theorem runPeriod_logKept (s : State) (i : StandNo) (p : Nat) : LogKept s (s.runPeriod i p) := by
  have hmeasure : LogKept s (s.measureRunning i p) := by
    unfold measureRunning
    dsimp only
    repeat' split
    all_goals exact modStand_logKept s i _
  have hcheck := hmeasure.trans (runoutCheck_logKept _ i)
  unfold runPeriod
  dsimp only
  split
  · exact hcheck.trans (enterFireWait_logKept _ i)
  · exact hcheck

theorem loopTab_logKept (s : State) (i : StandNo) : LogKept s (s.loopTab i) := by
  unfold loopTab unlock detectLock
  dsimp only
  repeat' split
  · exact (modLoop_logKept s i _).trans ((modLoop_logKept _ i _).trans (lockCleared_logKept _ i))
  · exact (modLoop_logKept s i _).trans (modLoop_logKept _ i _)
  · exact (modLoop_logKept s i _).trans <| (modLoop_logKept _ i _).trans <| (modLoop_logKept _ i _).trans <|
      (raise_logKept _ i _).trans (lockSet_logKept _ i)
  · exact (modLoop_logKept s i _).trans (modLoop_logKept _ i _)
  · exact (modLoop_logKept s i _).trans (modLoop_logKept _ i _)
  · exact .refl s

theorem contextTab_logKept (s : State) (i : StandNo) (p : Nat) : LogKept s (s.contextTab i p) := by
  unfold contextTab
  dsimp only
  repeat' split
  · exact (modCtx_logKept s i _).trans ((modOut_logKept _ i _).trans (enterState_logKept _ i _))
  · exact modCtx_logKept s i _
  · exact (modCtx_logKept s i _).trans (modOut_logKept _ i _)
  · exact .refl s

theorem handOn_logKept (s : State) (i : StandNo) (ch : Channel) (p : Nat) (b : Bool) :
    LogKept s (s.handOn i ch p b) := by
  have hfresh : LogKept s (s.measureFresh i p) := modStand_logKept s i _
  unfold handOn freshPeriod
  dsimp only
  repeat' split
  · exact runPeriod_logKept s i p
  · exact hfresh.trans ((loopTab_logKept _ i).trans (contextTab_logKept _ i p))
  · exact hfresh.trans ((contextTab_logKept _ i p).trans (loopTab_logKept _ i))
  · exact .refl s

theorem changeHolds_logKept (s : State) (i : StandNo) (ch : Channel) (b : Bool) : LogKept s (s.changeHolds i ch b) := by
  unfold changeHolds
  dsimp only
  repeat' split
  · exact .refl s
  · exact (updateChannel_logKept s i ch _).trans (handOn_logKept _ i ch _ b)
  · exact updateChannel_logKept s i ch _
  · exact setChannel_logKept s i ch _
  · exact .refl s

theorem freshStopped_logKept (s : State) (i : StandNo) : LogKept s (s.freshStopped i) := by
  unfold freshStopped
  split
  · exact abort_logKept s i _
  · exact abort_logKept s i _
  · exact (modCtx_logKept s i _).trans (enterRest_logKept _ i)
  · exact .refl s

theorem channelStops_logKept (s : State) (i : StandNo) (ch : Channel) : LogKept s (s.channelStops i ch) := by
  unfold channelStops
  dsimp only
  repeat' split
  · exact setChannel_logKept s i _ _
  · exact (setChannel_logKept s i _ _).trans ((modStand_logKept _ i _).trans (freshStopped_logKept _ i))
  · exact .refl s

theorem announceExcursion_logKept (s : State) (i : StandNo) : LogKept s (s.announceExcursion i) := by
  unfold announceExcursion
  split
  case h_1 | h_2 | h_3 => exact abort_logKept s i _
  case h_4 | h_5 => exact modCtx_logKept s i _
  case h_6 => exact .refl s

theorem convert_logKept (s : State) (code : BitVec 12) : LogKept s (s.convert code) := by
  have hnext : LogKept s { s with scanNext := s.scanNext + 1 } := .of_ledger rfl
  have hdancer (x : State) (i : StandNo) : LogKept x (x.convertDancer i code) := by
    unfold convertDancer
    dsimp only
    generalize (if insideBand (x.stand i).record code = true then 0
      else capNat 3 ((x.stand i).dancer.excursionRun + 1)) = n
    split
    · exact (modStand_logKept x i _).trans (announceExcursion_logKept _ i)
    · exact modStand_logKept x i _
  unfold convert
  dsimp only
  split
  · exact hnext.trans (hdancer _ _)
  · exact hnext.trans (modStand_logKept _ _ _)

/-! ### The timers of a splice and the guard -/

theorem setKnife_logKept (s : State) (i : StandNo) : LogKept s (s.setKnife i) := by
  unfold setKnife
  dsimp only
  repeat' split
  · exact (modOut_logKept s i _).trans ((modCtx_logKept _ i _).trans (raise_logKept _ i _))
  · exact (modOut_logKept s i _).trans ((modCtx_logKept _ i _).trans (raise_logKept _ i _))
  · exact (modOut_logKept s i _).trans (modCtx_logKept _ i _)

theorem pasterEnds_logKept (s : State) (i : StandNo) : LogKept s (s.pasterEnds i) := by
  have hfire (x : State) : LogKept x (x.firePaster i) := by
    unfold firePaster assertPaste takeFigures
    exact (enterState_logKept x i .pasting).trans <| (modOut_logKept _ i _).trans <| (modCtx_logKept _ i _).trans <|
      (setKnife_logKept _ i).trans <| (modCtx_logKept _ i _).trans <| (modLoop_logKept _ i _).trans <|
      (setPrewarn_logKept _ i _).trans (raise_logKept _ i .fired)
  unfold pasterEnds
  dsimp only
  repeat' split
  · exact (modOut_logKept s i _).trans (hfire _)
  · exact modOut_logKept s i _
  · exact .refl s

theorem knifeEnds_logKept (s : State) (i : StandNo) : LogKept s (s.knifeEnds i) := by
  have hassert (x : State) : LogKept x (x.assertKnife i) := by
    unfold assertKnife
    dsimp only
    split
    · exact .refl x
    · exact modOut_logKept x i _
  have hfire (x : State) : LogKept x (x.fireKnife i) := by
    unfold fireKnife startBrake
    exact (enterState_logKept x i .cut).trans <| (hassert _).trans <| (modOut_logKept _ i _).trans <|
      (modCtx_logKept _ i _).trans (queueDrive_txOnly _ i .handover).logKept
  unfold knifeEnds
  dsimp only
  repeat' split
  · exact (modOut_logKept s i _).trans (hfire _)
  · exact modOut_logKept s i _
  · exact .refl s

theorem endSplice_logKept (s : State) (i : StandNo) : LogKept s (s.endSplice i) :=
  (stopLoop_logKept s i).trans ((modOut_logKept _ i _).trans (enterRest_logKept _ i))

/-- The end of the confirm window writes one record, and the swap may write that of a runout (R81, R51). -/
theorem confirmEnds_logKept (s : State) (i : StandNo) : LogKept s (s.confirmEnds i) := by
  have hbroken (x : State) : LogKept x (x.endBroken i) := by
    unfold endBroken breakWeb
    exact (writeOutcome_logKept x i .breakSuspect).trans <| (raise_logKept _ i .breakSuspect).trans <|
      (modStand_logKept _ i _).trans <| (modCtx_logKept _ i _).trans (endSplice_logKept _ i)
  have hspliced (x : State) : LogKept x (x.endSpliced i) := by
    unfold endSpliced swap
    exact (writeOutcome_logKept x i .spliced).trans <| (raise_logKept _ i .spliced).trans <|
      (modStand_logKept _ i _).trans <| (runoutCheck_logKept _ i).trans (endSplice_logKept _ i)
  unfold confirmEnds
  dsimp only
  repeat' split
  · exact (modCtx_logKept s i _).trans (hbroken _)
  · exact (modCtx_logKept s i _).trans (hspliced _)
  · exact modCtx_logKept s i _
  · exact .refl s

theorem missingTabEnds_logKept (s : State) (i : StandNo) : LogKept s (s.missingTabEnds i) := by
  unfold missingTabEnds
  dsimp only
  repeat' split
  · exact (modCtx_logKept s i _).trans (abort_logKept _ i _)
  · exact modCtx_logKept s i _
  · exact .refl s

theorem stoppingEnds_logKept (s : State) (i : StandNo) : LogKept s (s.stoppingEnds i) := by
  unfold stoppingEnds
  dsimp only
  repeat' split
  · exact (modCtx_logKept s i _).trans (enterRest_logKept _ i)
  · exact modCtx_logKept s i _
  · exact .refl s

theorem announceLatch_logKept (s : State) (i : StandNo) : LogKept s (s.announceLatch i) := by
  unfold announceLatch
  split
  case h_1 | h_2 | h_3 | h_4 => exact abort_logKept s i _
  case h_5 => exact failInterlock_logKept s i
  all_goals exact .refl s

theorem guardOpens_logKept (s : State) (i : StandNo) : LogKept s (s.guardOpens i) := by
  unfold guardOpens
  dsimp only
  repeat' split
  · exact .refl s
  · exact modOut_logKept s i _
  · exact (modOut_logKept s i _).trans <| (modOut_logKept _ i _).trans <| (raise_logKept _ i _).trans
      (announceLatch_logKept _ i)

/-! ### The part mode -/

theorem goRun_logKept (s : State) (o : List StandNo) : LogKept s (s.goRun o) :=
  LogKept.trans (t := { s with mode := .run }) (.of_ledger rfl) (forStands_logKept o _ (fun i x => settle_logKept x i) _)

theorem goHold_logKept (s : State) (o : List StandNo) : LogKept s (s.goHold o) :=
  LogKept.trans (t := { s with mode := .hold }) (.of_ledger rfl)
    (forStands_logKept o _ (fun i x => (abortBeforeFire_logKept x i .hold).trans (settle_logKept _ i)) _)

theorem goConfig_logKept (s : State) (o : List StandNo) : LogKept s (s.goConfig o) :=
  LogKept.trans (t := { s with mode := .config }) (.of_ledger rfl) <| (mapStands_logKept _ _).trans
    (forStands_logKept o _ (fun i x => (modCtx_logKept x i _).trans (settle_logKept _ i)) _)

theorem setModeRun_logKept (s : State) (o : List StandNo) : LogKept s (s.setModeRun o).state := by
  unfold setModeRun
  repeat' split
  · exact goRun_logKept s o
  · exact .refl s
  · exact goRun_logKept s o
  · exact .refl s

theorem setModeHold_logKept (s : State) (o : List StandNo) : LogKept s (s.setModeHold o).state := by
  unfold setModeHold
  split
  · exact goHold_logKept s o
  · exact .refl s
  · exact .refl s

theorem setModeConfig_logKept (s : State) (o : List StandNo) : LogKept s (s.setModeConfig o).state := by
  unfold setModeConfig
  repeat' split
  · exact .refl s
  · exact goConfig_logKept s o
  · exact .refl s
  · exact goConfig_logKept s o
  · exact .refl s

/-! ### Requests of one stand -/

theorem changeSettled_logKept (s : State) (i : StandNo) (f : Stand → Stand) : LogKept s ((s.modStand i f).settle i) :=
  (modStand_logKept s i f).trans (settle_logKept _ i)

theorem autoOn_logKept (s : State) (i : StandNo) : LogKept s (s.autoOn i).state := by
  unfold autoOn
  split
  · exact .refl s
  · exact changeSettled_logKept s i _

theorem autoOff_logKept (s : State) (i : StandNo) : LogKept s (s.autoOff i).state := by
  unfold autoOff
  split
  · exact .refl s
  · exact changeSettled_logKept s i _

theorem spliceNow_logKept (s : State) (i : StandNo) : LogKept s (s.spliceNow i).state := by
  have hearly (x : State) : LogKept x (x.setEarly i) := modCtx_logKept x i _
  unfold spliceNow
  repeat' split
  · exact (enterRunUp_logKept s i).trans (hearly _)
  · exact .refl s
  · exact hearly s
  · exact (hearly s).trans (enterFireWait_logKept _ i)
  all_goals exact .refl s

theorem abortOrder_logKept (s : State) (i : StandNo) : LogKept s (s.abortOrder i).state := by
  unfold abortOrder
  split
  case h_1 | h_2 | h_3 | h_4 => exact abort_logKept s i _
  all_goals exact .refl s

theorem manualOn_logKept (s : State) (i : StandNo) : LogKept s (s.manualOn i).state := by
  unfold manualOn
  dsimp only [grant]
  repeat' split
  all_goals exact .of_ledger rfl

theorem manualOff_logKept (s : State) (i : StandNo) : LogKept s (s.manualOff i).state := by
  unfold manualOff
  dsimp only [grant]
  repeat' split
  all_goals exact .of_ledger rfl

theorem addReel_logKept (s : State) (i : StandNo) (r : ReelRecord) : LogKept s (s.addReel i r).state := by
  unfold addReel
  repeat' split
  · exact .refl s
  · exact .refl s
  · exact changeSettled_logKept s i _
  all_goals exact .refl s

theorem dropReel_logKept (s : State) (i : StandNo) (id : ReelId) : LogKept s (s.dropReel i id).state := by
  unfold dropReel
  split
  · exact .refl s
  · exact changeSettled_logKept s i _

theorem markReady_logKept (s : State) (i : StandNo) (id : ReelId) : LogKept s (s.markReady i id).state := by
  unfold markReady
  repeat' split
  · exact changeSettled_logKept s i _
  · exact .refl s
  · exact .refl s

theorem setRunning_logKept (s : State) (i : StandNo) (r : RunningReel) (d : Option Nat) :
    LogKept s (s.setRunning i r d).state := by
  unfold setRunning
  repeat' split
  · exact .refl s
  · exact .refl s
  · exact (modStand_logKept s i _).trans ((runoutCheck_logKept _ i).trans (settle_logKept _ i))
  all_goals exact .refl s

theorem clearRunning_logKept (s : State) (i : StandNo) : LogKept s (s.clearRunning i).state := by
  unfold clearRunning
  split
  · exact changeSettled_logKept s i _
  · exact .refl s

theorem replaceRecord_logKept (s : State) (i : StandNo) (r : StandRecord) : LogKept s (s.replaceRecord i r) := by
  have htuned (g : Stand → Stand) (h : SlotNo → Tracker → Tracker) : LogKept s ((s.modStand i g).mapTrackers h) :=
    (modStand_logKept s i g).trans (mapTrackers_logKept _ h)
  unfold replaceRecord
  dsimp only
  repeat' split
  · exact htuned _ _
  · exact (htuned _ _).trans (settle_logKept _ i)
  · exact (htuned _ _).trans ((modCtx_logKept _ i _).trans (settle_logKept _ i))

/-! ### The answers to requests -/

theorem lockedOrder_logKept (code : Nat) (ok : State → Bool) (act : State → StandNo → Answer)
    (h : ∀ x i, LogKept x (act x i).state) (f : Frame) (s : State) : LogKept s (lockedOrder code ok act f s).state :=
  orderSteps_state (.refl s) (needStand_state (.refl s) fun i => needLock_state (.refl s) (h s i))

theorem answerAbort_logKept (f : Frame) (s : State) : LogKept s (answerAbort f s).state :=
  orderSteps_state (.refl s) (needStand_state (.refl s) fun i => abortOrder_logKept s i)

theorem answerPutGrade_logKept (f : Frame) (s : State) : LogKept s (answerPutGrade f s).state := by
  refine needLength_state (.refl s) ?_
  unfold putGrade
  repeat' split
  all_goals exact .of_ledger rfl

theorem answerPutStand_logKept (f : Frame) (s : State) : LogKept s (answerPutStand f s).state := by
  refine needLength_state (.refl s) (needStand_state (.refl s) fun i => ?_)
  unfold putStand
  repeat' split
  · exact .refl s
  · exact replaceRecord_logKept s i _
  · exact .refl s
  · exact .refl s

theorem answerPutLine_logKept (f : Frame) (s : State) : LogKept s (answerPutLine f s).state := by
  refine needLength_state (.refl s) ?_
  rw [putLine_eq]
  repeat' split
  · exact .of_ledger (by rw [grant, ledger, withLine_rest, ledger])
  · exact .refl s
  · exact .refl s

theorem answerSetGroups_logKept (f : Frame) (s : State) : LogKept s (answerSetGroups f s).state := by
  refine needLength_state (.refl s) ?_
  unfold setGroups
  repeat' split
  all_goals exact .of_ledger rfl

theorem answerAddReel_logKept (f : Frame) (s : State) : LogKept s (answerAddReel f s).state := by
  refine needLength_state (.refl s) (needStand_state (.refl s) fun i => needLock_state (.refl s) ?_)
  dsimp only
  repeat' split
  · exact .refl s
  · exact addReel_logKept s i _
  · exact .refl s

theorem answerDropReel_logKept (f : Frame) (s : State) : LogKept s (answerDropReel f s).state := by
  refine needLength_state (.refl s) ?_
  dsimp only
  repeat' split
  · exact .refl s
  · exact .refl s
  · exact needLock_state (.refl s) (dropReel_logKept s _ _)

theorem answerMarkReady_logKept (f : Frame) (s : State) : LogKept s (answerMarkReady f s).state :=
  needLength_state (.refl s) (needStand_state (.refl s) fun i => needLock_state (.refl s) (markReady_logKept s i _))

theorem answerSetRunning_logKept (f : Frame) (s : State) : LogKept s (answerSetRunning f s).state := by
  refine needLength_state (.refl s) (needStand_state (.refl s) fun i => needLock_state (.refl s) ?_)
  repeat' split
  · exact clearRunning_logKept s i
  · exact .refl s
  · exact setRunning_logKept s i _ _

theorem answerTakeControl_logKept (f : Frame) (s : State) : LogKept s (answerTakeControl f s).state := by
  unfold answerTakeControl takeControl
  repeat' split
  all_goals exact .of_ledger rfl

theorem answerGiveControl_logKept (f : Frame) (s : State) : LogKept s (answerGiveControl f s).state := by
  unfold answerGiveControl giveControl
  repeat' split
  all_goals exact .of_ledger rfl

theorem answerClearInterlock_logKept (f : Frame) (s : State) : LogKept s (answerClearInterlock f s).state := by
  have hclear (i : StandNo) : LogKept s (s.clearInterlock i).state := by
    unfold clearInterlock
    dsimp only
    repeat' split
    all_goals exact .of_ledger rfl
  refine needLength_state (.refl s) ?_
  split
  · exact needStand_state (.refl s) hclear
  · exact .refl s

theorem answerClearEvents_logKept (f : Frame) (s : State) : LogKept s (answerClearEvents f s).state := by
  have hclear (i : StandNo) (codes : List Nat) : LogKept s (s.clearMarks i codes).state := by
    unfold clearMarks
    split
    all_goals exact .of_ledger rfl
  refine needLength_state (.refl s) ?_
  split
  · exact needLength_state (.refl s) (needStand_state (.refl s) fun i => hclear i _)
  · exact .refl s

/-- RESTART marks the records of the notices it loses, and neither adds a record nor numbers one anew (R134, R171). -/
theorem answerRestart_logKept (f : Frame) (s : State) : LogKept s (answerRestart f s).state := by
  unfold answerRestart
  split
  · have hrest := restarted_rest s
    have hlog := congrArg State.log hrest
    have hseq := congrArg State.nextSeq hrest
    exact LogKept.of_marks (t := s.restarted) (seq_marked _) hlog hseq
  · exact .refl s

/-! ### The request handler -/

theorem returnSlot_logKept (s : State) : LogKept s s.returnSlot := by
  unfold returnSlot
  split
  · exact (modPort_logKept s _).trans (offer_txOnly _).logKept
  · exact .refl s

theorem takeFrame_logKept (s : State) (f : Frame) : LogKept s (s.takeFrame f) := by
  unfold takeFrame popFrame refreshLocks
  exact (modPort_logKept s _).trans ((modPort_logKept _ _).trans (mapStands_logKept _ _))

/-- A request row keeps the log lawful when its answer does. -/
theorem handle_logKept (s : State) (t : Time) (takes : Frame → Bool) (ask : Bool) {body : Frame → State → Answer}
    (h : ∀ f x, LogKept x (body f x).state) : LogKept s ((s.setClock t).handle takes ask body) := by
  have hpop (x : State) : LogKept x x.popFrame.returnSlot := (modPort_logKept x _).trans (returnSlot_logKept _)
  refine LogKept.trans (t := s.setClock t) (.of_ledger rfl) ?_
  unfold handle
  repeat' split
  · exact .refl _
  · exact (takeFrame_logKept _ _).trans ((h _ _).trans (.of_ledger rfl))
  · exact .refl _
  · exact hpop _
  · exact (hpop _).trans (h _ _)
  · exact .refl _

/-- A request row that only reads keeps the log lawful. -/
theorem handle_logKept_of_reads (s : State) (t : Time) (takes : Frame → Bool) (ask : Bool)
    {body : Frame → State → Answer} (h : ∀ f x, (body f x).state = x) :
    LogKept s ((s.setClock t).handle takes ask body) :=
  handle_logKept s t takes ask fun f x => by rw [h]; exact .refl x

theorem discardPartVerb_logKept (s : State) : LogKept s s.discardPartVerb := by
  unfold discardPartVerb
  repeat' split
  · exact .refl s
  · exact (modPort_logKept s _).trans (returnSlot_logKept _)
  · exact .refl s

/-! ### The port -/

theorem arrivalEnds_logKept (s : State) (v : Byte) (p : List Byte) (c : Byte) (handOn : Header → State → State)
    (h : ∀ a x, LogKept x (handOn a x)) : LogKept s (s.arrivalEnds v p c handOn) := by
  unfold arrivalEnds
  repeat' split
  · exact (modPort_logKept s _).trans ((modPort_logKept _ _).trans (h _ _))
  · exact modPort_logKept s _
  all_goals exact .refl s

theorem handSample_logKept (p : List Byte) (o : List Matter) (a : Header) (s : State) :
    LogKept s (handSample p o a s) := by
  unfold handSample
  split
  · exact takeSample_logKept s p o
  · exact .refl s

theorem handHold_logKept (o : List StandNo) (a : Header) (s : State) : LogKept s (handHold o a s) := by
  unfold handHold
  split
  · exact goHold_logKept s o
  · exact .refl s
  · exact .refl s

theorem entersStuck_logKept (s : State) (l : List Bool) (o : List StandNo) : LogKept s (s.entersStuck l o) := by
  unfold entersStuck
  dsimp only
  split
  · exact .refl s
  · exact (modPort_logKept s _).trans (forStands_logKept o _ (fun i x => abortBeforeFire_logKept x i _) _)

theorem losesContest_logKept (s : State) : LogKept s s.losesContest := by
  unfold losesContest
  repeat' split
  · exact .refl s
  · exact .refl s
  · exact (modPort_logKept s _).trans (entryLoses_txOnly _).logKept

theorem referenceOutcome_logKept (s : State) (i : StandNo) (r : TxOutcome) : LogKept s (s.referenceOutcome i r) := by
  unfold referenceOutcome
  dsimp only
  repeat' split
  · exact modLoop_logKept s i _
  · exact (modLoop_logKept s i _).trans ((raise_logKept _ i _).trans (abortBeforeFire_logKept _ i _))
  · exact modLoop_logKept s i _
  · exact (modLoop_logKept s i _).trans ((raise_logKept _ i _).trans (abortBeforeFire_logKept _ i _))
  · exact modLoop_logKept s i _

theorem driveOutcome_logKept (s : State) (i : StandNo) (r : TxOutcome) : LogKept s (s.driveOutcome i r) := by
  unfold driveOutcome
  split
  · exact .refl s
  · exact raise_logKept s i _
  · exact raise_logKept s i _

/-- Of the outcomes handed over, that of a notice marks its record, and that of a REFERENCE may abort a splice (R134,
R101). -/
theorem handOutcome_logKept (s : State) (e : TxEntry) (r : TxOutcome) : LogKept s (s.handOutcome e r) := by
  unfold handOutcome noticeOutcome
  repeat' split
  · exact referenceOutcome_logKept s _ r
  · exact .refl s
  · exact driveOutcome_logKept s _ r
  · exact driveOutcome_logKept s _ r
  · exact .refl s
  · exact markUnacked_logKept s _
  · exact markUnacked_logKept s _
  · exact .refl s
  · exact .refl s

theorem frameEnds_logKept (s : State) (e : LineEnd) : LogKept s (s.frameEnds e) := by
  have hends (x : State) (r : TxOutcome) : LogKept x (x.entryEnds r) := by
    unfold entryEnds
    split
    · exact .refl x
    · exact (handOutcome_logKept x _ r).trans ((modPort_logKept _ _).trans (offer_txOnly _).logKept)
  unfold frameEnds
  repeat' split
  · exact .refl s
  · exact (modPort_logKept s _).trans (hends _ _)
  · exact .refl s

section

variable (s : State)

/-! The other events of the port change the port alone. -/

theorem requestEnds_logKept (p : List Byte) (c : Byte) : LogKept s (s.requestEnds p c) := by
  unfold requestEnds
  repeat' split
  all_goals exact .of_ledger rfl

theorem headerEnds_logKept (h : Header) (c : Byte) : LogKept s (s.headerEnds h c) := by
  unfold headerEnds
  split
  all_goals exact .of_ledger rfl

theorem abandonFrame_logKept (l : List Bool) : LogKept s (s.abandonFrame l) := by
  unfold abandonFrame
  dsimp only
  split
  all_goals exact .of_ledger rfl

theorem becomesIdle_logKept (l : List Bool) : LogKept s (s.becomesIdle l) := by
  unfold becomesIdle
  dsimp only
  split
  all_goals exact .of_ledger rfl

theorem startsReading_logKept : LogKept s s.startsReading := by
  unfold startsReading
  split
  all_goals exact .of_ledger rfl

theorem beginsFrame_logKept (r : List Contestant) : LogKept s (s.beginsFrame r) := by
  unfold beginsFrame
  repeat' split
  all_goals exact .of_ledger rfl

end

/-- Power-on empties the log (R155). -/
theorem poweredOn_logLawful (s : State) (pins : Pins) : (s.poweredOn pins).LogLawful := ⟨Nat.zero_le _, nofun⟩

/-! ### Every command -/

theorem LogKept.timed {s u : State} {t : Time} (h : LogKept (s.setClock t) u) : LogKept s u := h

/-- Every command keeps the log lawful. -/
theorem exec_logKept (c : Instr) (s : State) : ∃ u, exec c s = .next u ∧ LogKept s u := by
  cases c with
  | powerOn pins => exact ⟨_, rfl, fun _ => poweredOn_logLawful s pins⟩
  | askStatus t => exact ⟨_, rfl, handle_logKept_of_reads s t _ _ fun _ _ => rfl⟩
  | askStand t => exact ⟨_, rfl, handle_logKept_of_reads s t _ _ answerAskStand_state⟩
  | askGrade t => exact ⟨_, rfl, handle_logKept_of_reads s t _ _ answerAskGrade_state⟩
  | askQueue t => exact ⟨_, rfl, handle_logKept_of_reads s t _ _ answerAskQueue_state⟩
  | askLog t => exact ⟨_, rfl, handle_logKept_of_reads s t _ _ answerAskLog_state⟩
  | askLine t => exact ⟨_, rfl, handle_logKept_of_reads s t _ _ fun _ _ => rfl⟩
  | putGrade t => exact ⟨_, rfl, handle_logKept s t _ _ answerPutGrade_logKept⟩
  | putStand t => exact ⟨_, rfl, handle_logKept s t _ _ answerPutStand_logKept⟩
  | putLine t => exact ⟨_, rfl, handle_logKept s t _ _ answerPutLine_logKept⟩
  | setGroups t => exact ⟨_, rfl, handle_logKept s t _ _ answerSetGroups_logKept⟩
  | addReel t => exact ⟨_, rfl, handle_logKept s t _ _ answerAddReel_logKept⟩
  | dropReel t => exact ⟨_, rfl, handle_logKept s t _ _ answerDropReel_logKept⟩
  | markReady t => exact ⟨_, rfl, handle_logKept s t _ _ answerMarkReady_logKept⟩
  | setRunning t => exact ⟨_, rfl, handle_logKept s t _ _ answerSetRunning_logKept⟩
  | setModeRun t o =>
    exact ⟨_, rfl, handle_logKept s t _ _ fun f x => setMode_state (.refl x) (setModeRun_logKept x o)⟩
  | setModeHold t o =>
    exact ⟨_, rfl, handle_logKept s t _ _ fun f x => setMode_state (.refl x) (setModeHold_logKept x o)⟩
  | setModeConfig t o =>
    exact ⟨_, rfl, handle_logKept s t _ _ fun f x => setMode_state (.refl x) (setModeConfig_logKept x o)⟩
  | standOrderAutoOn t => exact ⟨_, rfl, handle_logKept s t _ _ (lockedOrder_logKept 1 _ _ autoOn_logKept)⟩
  | standOrderAutoOff t => exact ⟨_, rfl, handle_logKept s t _ _ (lockedOrder_logKept 2 _ _ autoOff_logKept)⟩
  | standOrderSpliceNow t => exact ⟨_, rfl, handle_logKept s t _ _ (lockedOrder_logKept 3 _ _ spliceNow_logKept)⟩
  | standOrderAbort t => exact ⟨_, rfl, handle_logKept s t _ _ answerAbort_logKept⟩
  | standOrderManualTrackOn t => exact ⟨_, rfl, handle_logKept s t _ _ (lockedOrder_logKept 5 _ _ manualOn_logKept)⟩
  | standOrderManualTrackOff t => exact ⟨_, rfl, handle_logKept s t _ _ (lockedOrder_logKept 6 _ _ manualOff_logKept)⟩
  | takeControl t => exact ⟨_, rfl, handle_logKept s t _ _ answerTakeControl_logKept⟩
  | giveControl t => exact ⟨_, rfl, handle_logKept s t _ _ answerGiveControl_logKept⟩
  | clearLatchInterlock t => exact ⟨_, rfl, handle_logKept s t _ _ answerClearInterlock_logKept⟩
  | clearLatchEvents t => exact ⟨_, rfl, handle_logKept s t _ _ answerClearEvents_logKept⟩
  | restart t => exact ⟨_, rfl, handle_logKept s t _ _ answerRestart_logKept⟩
  | unknownVerb t => exact ⟨_, rfl, handle_logKept_of_reads s t _ _ fun _ _ => rfl⟩
  | partVerbDiscarded t => exact ⟨_, rfl, (discardPartVerb_logKept (s.setClock t)).timed⟩
  | lineHold t p k o => exact ⟨_, rfl, (arrivalEnds_logKept (s.setClock t) _ p k _ (handHold_logKept o)).timed⟩
  | lineSample t p k o => exact ⟨_, rfl, (arrivalEnds_logKept (s.setClock t) _ p k _ (handSample_logKept p o)).timed⟩
  | coastingExpiry t k o => exact ⟨_, rfl, (coastingEnds_logKept (s.setClock t) k o).timed⟩
  | lostExpiry t k o => exact ⟨_, rfl, (lostEnds_logKept (s.setClock t) k o).timed⟩
  | windowClose t k o => exact ⟨_, rfl, (windowEnds_logKept (s.setClock t) k o).timed⟩
  | pulseInputChange t i ch b => exact ⟨_, rfl, (inputChanges_logKept (s.setClock t) i ch b).timed⟩
  | changeAccepted t i ch b => exact ⟨_, rfl, (changeHolds_logKept (s.setClock t) i ch b).timed⟩
  | stoppedTimerExpiry t i ch => exact ⟨_, rfl, (channelStops_logKept (s.setClock t) i ch).timed⟩
  | conversionCompletion t code => exact ⟨_, rfl, (convert_logKept (s.setClock t) code).timed⟩
  | guardOpen t i => exact ⟨_, rfl, (guardOpens_logKept (s.setClock t) i).timed⟩
  | guardSafe t i => exact ⟨_, rfl, (modOut_logKept (s.setClock t) i _).timed⟩
  | missingTabExpiry t i => exact ⟨_, rfl, (missingTabEnds_logKept (s.setClock t) i).timed⟩
  | pasterTimerExpiry t i => exact ⟨_, rfl, (pasterEnds_logKept (s.setClock t) i).timed⟩
  | knifeTimerExpiry t i => exact ⟨_, rfl, (knifeEnds_logKept (s.setClock t) i).timed⟩
  | confirmTimerExpiry t i => exact ⟨_, rfl, (confirmEnds_logKept (s.setClock t) i).timed⟩
  | stoppingTimerExpiry t i => exact ⟨_, rfl, (stoppingEnds_logKept (s.setClock t) i).timed⟩
  | pasteEndExpiry t i => exact ⟨_, rfl, (modOut_logKept (s.setClock t) i _).timed⟩
  | knifeEndExpiry t i => exact ⟨_, rfl, (modOut_logKept (s.setClock t) i _).timed⟩
  | brakeDelayExpiry t i => exact ⟨_, rfl, (modOut_logKept (s.setClock t) i _).timed⟩
  | brakeHoldExpiry t i => exact ⟨_, rfl, (modOut_logKept (s.setClock t) i _).timed⟩
  | hornHalfPeriod t i => exact ⟨_, rfl, (modOut_logKept (s.setClock t) i _).timed⟩
  | prewarnPhase t i => exact ⟨_, rfl, (modOut_logKept (s.setClock t) i _).timed⟩
  | lockExpiry t i => exact ⟨_, rfl, (modStand_logKept (s.setClock t) i _).timed⟩
  | requestFrame t p k => exact ⟨_, rfl, (requestEnds_logKept (s.setClock t) p k).timed⟩
  | transmitBegin m => exact ⟨_, rfl, (beginsFrame_logKept (s.setClock m.t) m.rivals).timed⟩
  | lostArbitration t => exact ⟨_, rfl, (losesContest_logKept (s.setClock t)).timed⟩
  | transmitOutcome t e => exact ⟨_, rfl, (frameEnds_logKept (s.setClock t) e).timed⟩
  | busIdle m => exact ⟨_, rfl, (becomesIdle_logKept (s.setClock m.t) m.line).timed⟩
  | stuck m o => exact ⟨_, rfl, (entersStuck_logKept (s.setClock m.t) m.line o).timed⟩
  | startMarkRead t => exact ⟨_, rfl, (startsReading_logKept (s.setClock t)).timed⟩
  | headerCheckEnd t h k => exact ⟨_, rfl, (headerEnds_logKept (s.setClock t) h k).timed⟩
  | receptionAbandoned m => exact ⟨_, rfl, (abandonFrame_logKept (s.setClock m.t) m.line).timed⟩

/-- Every step keeps the log lawful; the queue of waiting commands is no part of it. -/
theorem step_logKept {s u : State} (h : step s = .next u) : LogKept s u := by
  unfold step at h
  split at h
  · cases h
    exact .refl s
  · rename_i c rest _
    obtain ⟨v, hv, hk⟩ := exec_logKept c { s with pending := rest }
    rw [hv] at h
    cases h
    exact hk

end State

end Machine

end Sys2Proof
end

section
open Sys2Proof.Machine

/-- Settles O60: a command leaves the log, marks a record of it, or writes an outcome, whose record takes the next number and joins
a ring of 48. -/
theorem logKeptLawful : Obligations.LogKeptLawful := fun _ _ hs h => State.step_logKept h hs
end

section
/-! SUPPORT. ASK LOG: the five rows of R131, by how far back the number asked for lies (O7). -/

namespace Sys2Proof

namespace Machine

namespace State

variable {x : State} {n : SeqNo}

/-- In a lawful log the record as far back as it holds carries the number that lies so far back. -/
theorem LogLawful.holds (h : x.LogLawful) (hd : 1 ≤ (x.nextSeq - n).toNat) (hl : (x.nextSeq - n).toNat ≤ x.log.length) :
    ∃ r ∈ x.log, r.seq = n := by
  have hk : x.log.length - (x.nextSeq - n).toNat < x.log.length := by omega
  refine ⟨x.log[x.log.length - (x.nextSeq - n).toNat], List.getElem_mem hk, ?_⟩
  rw [h.2 _ hk, Nat.sub_sub_self hl, BitVec.ofNat_toNat, BitVec.setWidth_eq]
  bv_omega

/-! ### The rows of R131 -/

theorem logAnswer_of_next (h : (x.nextSeq - n).toNat = 0) : logAnswer x n = refuse x .empty := if_pos h

theorem logAnswer_of_held (hs : x.LogLawful) (hd : 1 ≤ (x.nextSeq - n).toNat) (hl : (x.nextSeq - n).toNat ≤ x.log.length) :
    ∃ r ∈ x.log, r.seq = n ∧ logAnswer x n = ⟨x, .accepted, recordBytes r⟩ := by
  obtain ⟨r, hr, hn⟩ := hs.holds hd hl
  obtain ⟨a, ha⟩ : ∃ a, x.log.find? (fun r => r.seq == n) = some a :=
    Option.isSome_iff_exists.1 (List.find?_isSome.2 ⟨r, hr, by simp [hn]⟩)
  refine ⟨a, List.mem_of_find?_eq_some ha, by simpa using List.find?_some ha, ?_⟩
  unfold logAnswer
  rw [if_neg (by omega), if_pos hl, ha]

theorem logAnswer_of_gone {r : SpliceRecord} (hr : x.log.head? = some r) (hl : x.log.length < (x.nextSeq - n).toNat)
    (hd : (x.nextSeq - n).toNat ≤ 32768) : logAnswer x n = ⟨x, .gap, recordBytes r⟩ := by
  obtain ⟨rest, hlog⟩ := List.head?_eq_some_iff.1 hr
  unfold logAnswer
  dsimp only
  rw [if_neg (by omega), if_neg (by omega), hlog]
  exact if_pos hd

theorem logAnswer_of_ahead (hs : x.LogLawful) (hd : 32768 < (x.nextSeq - n).toNat) :
    logAnswer x n = refuse x .badValue := by
  have hlen := hs.1
  unfold logAnswer
  dsimp only
  rw [if_neg (by omega), if_neg (by omega)]
  cases x.log with
  | nil => rfl
  | cons r rest => exact if_neg (by omega)

theorem logAnswer_of_empty (h : x.log = []) (hd : (x.nextSeq - n).toNat ≠ 0) : logAnswer x n = refuse x .badValue := by
  unfold logAnswer
  dsimp only
  rw [if_neg hd, h]
  exact if_neg (by simpa using hd)

/-! ### The request -/

/-- A request of two bytes or more is answered by the row of the number they give. -/
theorem exec_askLog {s : State} {f : Frame} {a b : Byte} {more : List Byte} (h : s.CanTake f) (t : Time)
    (hv : f.verb = 0x44) (hp : f.payload = a :: b :: more) {u : State} {r : Result} {data : List Byte}
    (hb : logAnswer (s.taking t f) (a ++ b) = ⟨u, r, data⟩) : exec (.askLog t) s = .next (u.replied f r data) := by
  have hn : w16 f.payload 0 = a ++ b := by rw [hp]; rfl
  refine exec_answers h rfl (carries_of_verb hv) ?_
  rw [answerAskLog, needLength_long (by rw [hp]; simp), hn]
  exact hb

end State

end Machine

end Sys2Proof
end

section
open Sys2Proof Sys2Proof.Machine Sys2Proof.Machine.State

/-- Settles O7: the taking of the frame leaves the log, whose lawful numbers put the record asked for in the ring. -/
theorem askLogAnswers : Obligations.AskLogAnswers := by
  intro s t f a b more h hv hp hs n d x
  have hx : x.LogLawful := hs
  have answers {u : State} {r : Result} {data : List Byte} (hb : logAnswer x n = ⟨u, r, data⟩) :
      exec (.askLog t) s = .next (u.replied f r data) := exec_askLog h t hv hp hb
  refine ⟨fun hd => answers (logAnswer_of_next hd), fun hd hl => ?_, fun r hr hl hd => answers (logAnswer_of_gone hr hl hd),
    fun _ hd => answers (logAnswer_of_ahead hx hd), fun hlog hd => answers (logAnswer_of_empty hlog hd)⟩
  obtain ⟨r, hr, hn, ha⟩ := logAnswer_of_held hx hd hl
  exact ⟨r, hr, hn, answers ha⟩
end

section
/-! SUPPORT. CLEAR LATCH with kind events: the kinds it accepts, and the marks it clears (O23). -/

namespace Sys2Proof

namespace Machine

/-- What is left of an event set after the clearing of some kind codes (R136). -/
theorem getLsbD_clearEvents (e : EventSet) (codes : List Nat) (k : Nat) :
    (clearEvents e codes).getLsbD k = (e.getLsbD k && !(codes.any fun c => c == k)) := by
  unfold clearEvents
  induction codes generalizing e with
  | nil => simp
  | cons c codes ih =>
    rw [List.foldl_cons, ih, BitVec.getLsbD_and, BitVec.getLsbD_not, BitVec.getLsbD_twoPow, List.any_cons]
    by_cases hk : k < 16
    · by_cases hc : c = k
      · simp [hc, hk]
      · simp [beq_eq_false_iff_ne.2 hc, hc, hk]
    · rw [BitVec.getLsbD_of_ge e k (by omega)]
      rfl

/-- Kinds that each name one of the sixteen, no one twice: there are at most sixteen of them (R173). -/
theorem kindsNamed_iff (kinds : List Byte) :
    let codes := kinds.map BitVec.toNat
    (codes.length ≤ 16 ∧ codes.all (fun k => decide (k < 16)) ∧ codes.Nodup) ↔
      (∀ k ∈ kinds, k.toNat < 16) ∧ kinds.Nodup := by
  intro codes
  have hnodup : codes.Nodup ↔ kinds.Nodup := by
    simp only [codes, List.nodup_iff_pairwise_ne, List.pairwise_map, ne_eq, BitVec.toNat_inj]
  have hall : codes.all (fun k => decide (k < 16)) = true ↔ ∀ k ∈ kinds, k.toNat < 16 := by simp [codes]
  rw [hnodup, hall]
  refine ⟨And.right, fun h => ⟨?_, h⟩⟩
  have hsub : codes ⊆ List.range 16 := fun c hc => by
    obtain ⟨k, hk, rfl⟩ := List.mem_map.1 hc
    exact List.mem_range.2 (h.1 k hk)
  rw [← List.length_range (n := 16)]
  exact (hnodup.2 h.2).length_le_of_subset hsub

namespace State

variable {s : State} {i : StandNo} {f : Frame} {kinds more : List Byte}

/-- A request that holds as many kinds as it counts comes down to the clearing of those kinds. -/
theorem answerClearEvents_eq
    (hp : f.payload = 1 :: BitVec.ofNat 8 (i.val + 1) :: BitVec.ofNat 8 kinds.length :: (kinds ++ more))
    (hlen : kinds.length < 256) (x : State) : answerClearEvents f x = x.clearMarks i (kinds.map BitVec.toNat) := by
  have hkind : u8 f.payload 0 = 1 := by rw [hp]; rfl
  have hstand : u8 f.payload 1 = i.val + 1 := by
    rw [hp]
    exact toNat_standByte i
  have hcount : u8 f.payload 2 = kinds.length := by
    rw [hp]
    exact (BitVec.toNat_ofNat _ _).trans (Nat.mod_eq_of_lt hlen)
  have hcodes : kindCodes f.payload = kinds.map BitVec.toNat := by
    rw [kindCodes, hcount, hp]
    simp
  unfold answerClearEvents
  rw [needLength_long (by rw [hp]; simp), if_pos hkind, hcount, needLength_long (by rw [hp]; simp; omega), hstand, hcodes]
  simp only [needStand, standOf_standNumber]

end State

end Machine

end Sys2Proof
end

section
open Sys2Proof Sys2Proof.Machine Sys2Proof.Machine.State

/-- Settles O23: the kinds are accepted by `kindsNamed_iff`, and the taking of the frame leaves the marks that
`getLsbD_clearEvents` then clears. -/
theorem clearEventsClearsKindsNamed : Obligations.ClearEventsClearsKindsNamed := by
  intro s t f i kinds more h hv hp hlen x ok
  have hanswer := answerClearEvents_eq hp hlen x
  have answers {u : State} {r : Result} (hb : x.clearMarks i (kinds.map BitVec.toNat) = ⟨u, r, []⟩) :
      exec (.clearLatchEvents t) s = .next (u.replied f r []) :=
    exec_answers h rfl (takesLatch_events hv hp) (hanswer.trans hb)
  have hok := kindsNamed_iff kinds
  refine ⟨fun hno => answers (if_neg (mt hok.1 hno)), fun hyes => ⟨_, answers (if_pos (hok.2 hyes)), fun k => ?_⟩⟩
  rw [getLsbD_clearEvents, List.any_map, stand_taking]
  rfl
end

section
/-! SUPPORT. The record and the notice of an outcome: what the log takes, and where the notice goes (O44). -/

namespace Sys2Proof

namespace Machine

/-! ### Records up to their NOTICE_UNACKED marks -/

/-- A record with its NOTICE_UNACKED mark clear. -/
def SpliceRecord.plain (r : SpliceRecord) : SpliceRecord := { r with noticeUnacked := false }

theorem SpliceRecord.plain_marked (f : SpliceRecord → Bool) (r : SpliceRecord) :
    (if f r then { r with noticeUnacked := true } else r).plain = r.plain := by split <;> rfl

namespace State

theorem map_newest {α β : Type} (f : α → β) (n : Nat) (l : List α) : (newest n l).map f = newest n (l.map f) := by
  rw [newest, newest, List.map_drop, List.length_map]

theorem length_newest {α : Type} (n : Nat) (l : List α) : (newest n l).length = min n l.length := by
  rw [newest, List.length_drop]
  omega

section

variable (s : State) (i : StandNo) (o : SpliceOutcome)

/-! ### What the log takes (R130) -/

/-- The log takes the record as its newest, some of its records being marked besides (R130, R134). -/
theorem plain_writeOutcome : (s.writeOutcome i o).log.map SpliceRecord.plain =
    newest 48 (s.log.map SpliceRecord.plain ++ [s.makeRecord i o]) := by
  obtain ⟨f, hlog, -⟩ := writeOutcome_log s i o
  have hplain : (s.writeOutcome i o).log.map SpliceRecord.plain =
      (newest 48 (s.log ++ [s.makeRecord i o])).map SpliceRecord.plain := by
    rw [hlog, List.map_map]
    exact List.map_congr_left fun r _ => SpliceRecord.plain_marked f r
  rw [hplain, map_newest, List.map_append]
  rfl

theorem length_writeOutcome : (s.writeOutcome i o).log.length = min 48 (s.log.length + 1) := by
  rw [← List.length_map SpliceRecord.plain, plain_writeOutcome, length_newest, List.length_append, List.length_map,
    List.length_singleton]

theorem nextSeq_writeOutcome : (s.writeOutcome i o).nextSeq = s.nextSeq + 1 := by
  obtain ⟨f, -, hseq⟩ := writeOutcome_log s i o
  exact hseq

theorem log_logRecord (r : SpliceRecord) : (s.logRecord r).log = newest 48 (s.log ++ [r]) := newest_append _ _

/-! ### Where the notice goes (R132, R133) -/

/-- The notice of an outcome of the stand, written now. -/
def outcomeNotice : Notice :=
  ⟨i, s.line.lineMaster, s.nextSeq, (s.makeRecord i o).joint, (s.makeRecord i o).v, (s.makeRecord i o).fresh, o⟩

variable {s i o}

theorem writeOutcome_noticed (h : o.PastFire) :
    s.writeOutcome i o = (s.logRecord (s.makeRecord i o)).sendNotice (s.outcomeNotice i o) := (writeOutcome_eq s i o).1 h

/-- With a free slot the notice joins the transmit queue. -/
theorem writeOutcome_places (h : o.PastFire) (hf : s.hasFree = true) : s.writeOutcome i o =
    { s.logRecord (s.makeRecord i o) with
      port := { s.port with tx := s.port.tx ++ [(s.outcomeNotice i o).entry] } } := by
  rw [writeOutcome_noticed h]
  exact (sendNotice_spec (s.logRecord (s.makeRecord i o)) _).1 hf

/-- Without one it becomes the stand's pending notice, and the record of one still held is marked. -/
theorem writeOutcome_holds (h : o.PastFire) (hf : s.hasFree = false) : s.writeOutcome i o =
    { s.logRecord (s.makeRecord i o) with
      log := (s.logRecord (s.makeRecord i o)).log.map fun r =>
        if (s.port.waitingNotices.filter fun a => a.stand == i).any fun b => b.seq == r.seq then
          { r with noticeUnacked := true } else r
      port := { s.port with
        waitingNotices := s.port.waitingNotices.filter (fun a => a.stand != i) ++ [s.outcomeNotice i o] } } := by
  rw [writeOutcome_noticed h]
  exact (sendNotice_spec (s.logRecord (s.makeRecord i o)) _).2 hf

end

end State

end Machine

end Sys2Proof
end

section
open Sys2Proof.Machine Sys2Proof.Machine.State

/-- Settles O44: the log takes the record, by `writeOutcome_log`; the notice is placed or held, by `sendNotice_spec`. -/
theorem logTakesRecordAndNotice : Obligations.LogTakesRecordAndNotice := by
  intro s i o u r plain n forms free held
  have hforms : forms ↔ o.PastFire := ⟨Or.imp_right Or.symm, Or.imp_right Or.symm⟩
  have hfree : free ↔ s.hasFree = true := (hasFree_iff s).symm
  refine ⟨fun hl => ⟨rfl, nextSeq_writeOutcome s i o, writeOutcome_logKept s i o hl, plain_writeOutcome s i o, fun h => ?_,
    fun h => ?_⟩, fun h => ?_, fun h hf => ?_, fun h hf => ?_⟩
  · rw [length_writeOutcome]
    omega
  · rw [length_writeOutcome]
    omega
  · have hsilent : u = s.logRecord r := (writeOutcome_eq s i o).2 fun hp => h (hforms.2 hp)
    rw [hsilent]
    exact ⟨rfl, log_logRecord s r⟩
  · have hplaced := writeOutcome_places (i := i) (hforms.1 h) (hfree.1 hf)
    exact ⟨congrArg State.port hplaced, (congrArg State.log hplaced).trans (log_logRecord s r)⟩
  · have hheld := writeOutcome_holds (i := i) (hforms.1 h) (eq_false_of_ne_true (mt hfree.2 hf))
    refine ⟨congrArg State.port hheld, (congrArg State.log hheld).trans ?_⟩
    rw [← log_logRecord]
end

section
/-! SUPPORT. How a newly latched mark brings the stand's report up to date (O53). -/

namespace Sys2Proof

namespace Machine

theorem TxEntry.isReport_iff {i : StandNo} {e : TxEntry} : e.isReport i = true ↔ ∃ c v, e.body = .report i c v := by
  simpa using State.any_isReport [e] i

theorem Stand.setChannel_channel (x : Stand) (ch : Channel) : x.setChannel ch (x.channel ch) = x := by cases ch <;> rfl

namespace State

variable {s : State} {i : StandNo}

/-! ### The report of a stand (R137, R138) -/

theorem owe_eq (s : State) (i : StandNo) : s.owe i = if i ∈ s.port.owedReports then s
    else { s with port := { s.port with owedReports := s.port.owedReports ++ [i] } } := by
  simp only [owe, List.contains_iff_mem]
  rfl

theorem bringUpReport_silent (h : s.line.reportStation = 0) : s.bringUpReport i = s := if_pos h

section

variable (h : s.line.reportStation ≠ 0)

include h

/-- With a report station, the oldest report of the stand decides, if the queue holds one. -/
theorem bringUpReport_standing {pre post : List TxEntry} {a : TxEntry} (htx : s.port.tx = pre ++ a :: post)
    (ha : a.isReport i = true) (hpre : ∀ b ∈ pre, ¬ b.isReport i = true) :
    s.bringUpReport i = if a.begun then s.owe i else s.refreshReport i := by
  have hfind : s.port.tx.find? (TxEntry.isReport i) = some a := by
    rw [htx, List.find?_append, List.find?_eq_none.2 hpre, List.find?_cons, ha]
    rfl
  unfold bringUpReport
  rw [if_neg h, hfind]

/-- With none, a new one is placed in a free slot, or owed. -/
theorem bringUpReport_absent (hn : ∀ a ∈ s.port.tx, ¬ a.isReport i = true) :
    s.bringUpReport i = if s.hasFree then s.place (s.reportEntry i) else s.owe i := by
  unfold bringUpReport
  rw [if_neg h, List.find?_eq_none.2 hn]

end

/-- A report not begun, the only one of its stand, is rewritten in its place. -/
theorem refreshReport_only {pre post : List TxEntry} {a : TxEntry} (htx : s.port.tx = pre ++ a :: post)
    (ha : a.isReport i = true) (hb : a.begun = false) (hpre : ∀ b ∈ pre, ¬ b.isReport i = true)
    (hpost : ∀ b ∈ post, ¬ b.isReport i = true) : s.refreshReport i =
      { s with port := { s.port with tx := pre ++ { a with body := s.reportBody i } :: post } } := by
  have hkeeps (l : List TxEntry) (hl : ∀ b ∈ l, ¬ b.isReport i = true) : (l.map fun e =>
      if e.isReport i && !e.begun then { e with body := s.reportBody i } else e) = l := by
    refine (List.map_congr_left (g := id) fun b hbl => ?_).trans (List.map_id l)
    rw [eq_false_of_ne_true (hl b hbl)]
    rfl
  unfold refreshReport modPort
  dsimp only
  rw [htx, List.map_append, List.map_cons, hkeeps pre hpre, hkeeps post hpost, ha, hb]
  rfl

/-! ### The raising of an event (R135) -/

/-- The stand's event set with a mark latched. -/
def latchMark (s : State) (i : StandNo) (k : EventKind) : State :=
  s.setStand i { s.stand i with events := withEvent (s.stand i).events k }

theorem raise_latched {k : EventKind} (h : hasEvent (s.stand i).events k = true) : s.raise i k = s := if_pos h

theorem raise_fresh {k : EventKind} (h : hasEvent (s.stand i).events k = false) :
    s.raise i k = (s.latchMark i k).bringUpReport i := if_neg (by simp [h])

theorem reportBody_latchMark (s : State) (i : StandNo) (k : EventKind) : (s.latchMark i k).reportBody i =
    .report i (s.stand i).ctx.state (withEvent (s.stand i).events k) := by
  rw [reportBody, latchMark, stand_setStand, if_pos rfl]

/-! ### A glitch in STOPPED (R43, R46) -/

/-- A channel written as it is. -/
theorem setChannel_same (s : State) (i : StandNo) (ch : Channel) : s.setChannel i ch ((s.stand i).channel ch) = s := by
  refine ext_stands (fun j => ?_) (fun _ => rfl) rfl rfl rfl rfl rfl rfl rfl rfl rfl
  rw [State.setChannel, stand_modStand, Stand.setChannel_channel]
  split
  · rename_i e
    rw [e]
  · rfl

/-- The end of a pending change in STOPPED counts no glitch, so the channel is left as its input changed. -/
theorem inputChanges_stopped {ch : Channel} {high : Bool} (hs : ((s.stand i).channel ch).state = .stopped)
    (hi : high ≠ ((s.stand i).channel ch).input) (hc : ((s.stand i).channel ch).change ≠ none) :
    s.inputChanges i ch high = s.changeEnded i ch high := by
  have hchannel : ((s.changeEnded i ch high).stand i).channel ch =
      { (s.stand i).channel ch with input := high, change := none } := by
    rw [stand_changeEnded, channel_withEvents, channel_setChannel]
  have hglitch : PulseChannel.glitch { (s.stand i).channel ch with input := high, change := none } =
      ((s.changeEnded i ch high).stand i).channel ch := by
    rw [hchannel, PulseChannel.glitch_eq]
    exact if_pos hs
  rw [inputChanges_ends hi hc, hglitch, updateChannel_quiet _ _ _ _ (Bool.eq_false_or_eq_true _).symm, setChannel_same]

end State

end Machine

end Sys2Proof
end

section
open Sys2Proof Sys2Proof.Machine Sys2Proof.Machine.State

/-- Settles O53: a mark that newly latches leaves the port, so the reports standing before it decide what becomes of the stand's. -/
theorem reportsBroughtUp : Obligations.ReportsBroughtUp := by
  constructor
  · intro s t i ch high c x he hs hi hc
    have hnoise : x.changeEnded i ch high = (x.setChannel i ch { c with input := high, change := none }).raise i .noise := by
      refine if_pos ?_
      rw [stand_setChannel, record_setChannel]
      exact he
    exact congrArg Host.Outcome.next ((inputChanges_stopped (s := x) hs hi hc).trans hnoise)
  · intro s i k e x body isReport owing
    have hbody : x.reportBody i = body := reportBody_latchMark s i k
    have howing : x.owe i = owing := owe_eq x i
    refine ⟨raise_latched, fun hk => ?_⟩
    rw [raise_fresh hk]
    refine ⟨bringUpReport_silent (s := x), fun hr => ⟨fun pre post a htx ha hpre hpost => ?_, fun hn => ?_⟩⟩
    · have ha' := TxEntry.isReport_iff.2 ha
      have hpre' (b : TxEntry) (hb : b ∈ pre) := mt TxEntry.isReport_iff.1 (hpre b hb)
      have hpost' (b : TxEntry) (hb : b ∈ post) := mt TxEntry.isReport_iff.1 (hpost b hb)
      have hstanding := bringUpReport_standing (s := x) (i := i) hr htx ha' hpre'
      refine ⟨fun hb => hstanding.trans ?_, fun hb => hstanding.trans ?_⟩
      · rw [if_neg (by simp [hb]), ← hbody]
        exact refreshReport_only (s := x) htx ha' hb hpre' hpost'
      · rw [if_pos hb, howing]
    · have habsent := bringUpReport_absent (s := x) (i := i) hr fun a ha => mt TxEntry.isReport_iff.1 (hn a ha)
      refine ⟨fun hf => habsent.trans ?_, fun hf => habsent.trans ?_⟩
      · rw [if_pos ((hasFree_iff x).2 hf), ← hbody]
        rfl
      · rw [if_neg fun hfree => Nat.not_lt.2 hf ((hasFree_iff x).1 hfree), howing]
end

section
/-! SUPPORT. The end of the confirm window: what the splice leaves of its stand, its record and its notice (O41). -/

namespace Sys2Proof

namespace Machine

namespace State

/-! ### The exit from CUT (R81, R94, R117) -/

/-- The records behind a head that leaves have no ready head (R23). -/
theorem head_closeUp_unready (q : List ReelRecord) : ((closeUp q).head?.any fun r => r.ready) = false := by
  unfold closeUp
  cases q.tail <;> rfl

/-- With no ready head a context does not come to WATCH (R61). -/
theorem restingFor_of_unready (m : Mode) {x : Stand} (h : (x.queue.head?.any fun r => r.ready) = false) : restingFor m x =
    if x.record.enabled = false then .off else if m = .config ∨ x.ctx.auto = false then .idle else .noReel := by
  unfold restingFor
  rw [h]
  simp

/-- The stand at the exit: its loop stopped, its outputs off, its context at rest. -/
theorem stand_endSplice (z : State) (i : StandNo) : ∃ horn : Horn, (z.endSplice i).stand i = { z.stand i with
    ctx := { (z.stand i).ctx with
      state := restingFor z.mode (z.stand i)
      early := false
      cause := none
      prewarn := false }
    loop := { (z.stand i).loop with activity := .stopped }
    out := { (z.stand i).out with paste := false, knife := false, pasteEndAt := none, knifeEndAt := none, horn := horn } } := by
  have hout : ((z.stopLoop i).forceOff i).stand i = { z.stand i with
      loop := { (z.stand i).loop with activity := .stopped }
      out := { (z.stand i).out with paste := false, knife := false, pasteEndAt := none, knifeEndAt := none } } := by
    simp [forceOff]
  have hmode : ((z.stopLoop i).forceOff i).mode = z.mode := (stopLoop_own z i).mode
  obtain ⟨horn, hrest⟩ := stand_enterRest ((z.stopLoop i).forceOff i) i i
  rw [if_pos rfl, hout, hmode] at hrest
  exact ⟨horn, hrest⟩

theorem port_endSplice (z : State) (i : StandNo) : (z.endSplice i).port = (z.stopLoop i).port := port_enterRest _ i

theorem ledger_endSplice (z : State) (i : StandNo) : (z.endSplice i).ledger = z.ledger := by
  simp [ledger, endSplice, forceOff]

theorem endSplice_carries (z : State) (i : StandNo) : CarriesNotices z (z.endSplice i) :=
  (stopLoop_carries z i).trans (.ofPort (port_endSplice z i))

theorem endSplice_withdrawn (z : State) (i : StandNo) : (z.endSplice i).ReferencesWithdrawn i := by
  unfold ReferencesWithdrawn
  rw [port_endSplice]
  exact withdrawReferences_withdrawn _ i

/-! ### The changes to the reels at each outcome (R22, R23) -/

section

variable (s : State) (i : StandNo)

/-- The outcome of a splice whose confirm window ends (R81). -/
def closingOutcome (x : Stand) : SpliceOutcome := if x.ctx.excursion then .breakSuspect else .spliced

/-- The splice ended SPLICED, before its exit from CUT. -/
def swapped : State := ((s.writeOutcome i .spliced).raise i .spliced).swap i

/-- The splice ended BREAK_SUSPECT, before its exit from CUT. -/
def broken : State :=
  (((s.writeOutcome i .breakSuspect).raise i .breakSuspect).breakWeb i).modCtx i fun x => { x with auto := false }

/-- The splice ended by its outcome, before its exit from CUT. -/
def closing : State := if (s.stand i).ctx.excursion then s.broken i else s.swapped i

theorem closing_own : OwnChange i s (s.closing i) := by
  unfold closing broken swapped
  split
  · exact (writeOutcome_own s i _).trans <| (raise_own _ i _).trans <| (breakWeb_own _ i).trans (modCtx_own _ i _)
  · exact (writeOutcome_own s i _).trans <| (raise_own _ i _).trans (swap_own _ i)

theorem stand_broken : (s.broken i).stand i = { s.stand i with
    running := none
    queue := closeUp (s.stand i).queue
    measured := false
    ctx := { (s.stand i).ctx with auto := false }
    events := withEvent (s.stand i).events .breakSuspect } := by
  simp [broken, breakWeb, stand_writeOutcome]

variable {s i}

/-- In CUT the runout check at most marks the runout and raises it (R51, R83). -/
theorem runoutCheck_in_cut (h : (s.stand i).ctx.state = .cut) :
    (s.runoutCheck i).ledger = s.ledger ∧ CarriesNotices s (s.runoutCheck i) ∧
      ∃ b e, (s.runoutCheck i).stand i = { s.stand i with runoutFired := b, events := e } ∧
        ∀ k, hasEvent (s.stand i).events k = true → hasEvent e k = true := by
  by_cases hr : s.RunoutDue i
  · have hb : (s.stand i).ctx.state.beforeFire = false := by rw [h]; rfl
    obtain ⟨hstand, -, helse⟩ := ((runoutCheck_spec s i).2 hr).2 hb
    have hraise := helse (by rw [h]; nofun) (by rw [h]; nofun)
    refine ⟨?_, ?_, _, _, hstand, fun k hk => hasEvent_withEvent_of_has hk _⟩
    · rw [hraise, ledger, log_raise_eq, nextSeq_raise_eq]
      rfl
    · rw [hraise]
      exact CarriesNotices.trans (t := s.setStand i { s.stand i with runoutFired := true }) (.ofPort rfl) (raise_carries _ i _)
  · rw [runoutCheck_of_not_due hr]
    exact ⟨rfl, .refl s, _, _, rfl, fun _ hk => hk⟩

/-- The head made the running reel, held (R22). -/
def reeled (x : Stand) : Stand :=
  { x with
    running := x.queue.head?.map fun r => ⟨r.id, r.grade⟩
    queue := closeUp x.queue
    dRun := x.dFresh
    measured := false
    runoutFired := false }

theorem swapped_spec (h : (s.stand i).ctx.state = .cut) :
    (s.swapped i).ledger = (s.writeOutcome i .spliced).ledger ∧ CarriesNotices (s.writeOutcome i .spliced) (s.swapped i) ∧
      ∃ b e, (s.swapped i).stand i = { reeled (s.stand i) with runoutFired := b, events := e } ∧
        hasEvent e .spliced = true := by
  let y := ((s.writeOutcome i .spliced).raise i .spliced).modStand i reeled
  have hy : y.stand i = reeled { s.stand i with events := withEvent (s.stand i).events .spliced } := by
    simp [y, stand_writeOutcome]
  have hledger : y.ledger = (s.writeOutcome i .spliced).ledger := by simp [y, ledger]
  have hcarries : CarriesNotices (s.writeOutcome i .spliced) y := (raise_carries _ i .spliced).trans (.ofPort rfl)
  obtain ⟨hcheck, hcarry, b, e, hstand, hkeeps⟩ := runoutCheck_in_cut (s := y) (i := i) (by rw [hy]; exact h)
  rw [hy] at hstand hkeeps
  exact ⟨hcheck.trans hledger, hcarries.trans hcarry, b, e, hstand, hkeeps _ (hasEvent_withEvent _ _)⟩

theorem broken_spec (s : State) (i : StandNo) : (s.broken i).ledger = (s.writeOutcome i .breakSuspect).ledger ∧
    CarriesNotices (s.writeOutcome i .breakSuspect) (s.broken i) := by
  refine ⟨?_, (raise_carries _ i .breakSuspect).trans (.ofPort rfl)⟩
  simp [ledger, broken, breakWeb]

/-- The log and the notices past the close are those of the outcome. -/
theorem closing_outcome (h : (s.stand i).ctx.state = .cut) :
    (s.closing i).ledger = (s.writeOutcome i (closingOutcome (s.stand i))).ledger ∧
      CarriesNotices (s.writeOutcome i (closingOutcome (s.stand i))) (s.closing i) := by
  unfold closing closingOutcome
  split
  · exact broken_spec s i
  · obtain ⟨hledger, hcarries, -⟩ := swapped_spec h
    exact ⟨hledger, hcarries⟩

theorem closingOutcome_past (x : Stand) : (closingOutcome x).PastFire := by
  unfold closingOutcome
  split
  · exact .inr (.inl rfl)
  · exact .inl rfl

/-- What the outcome wrote stands past the exit from CUT: its number, its notice and its record (R81, R92, R132). -/
theorem closing_writes (h : (s.stand i).ctx.state = .cut) :
    ((s.closing i).endSplice i).nextSeq = s.nextSeq + 1 ∧
      ((s.closing i).endSplice i).NoticeGiven ⟨i, s.line.lineMaster, s.nextSeq, (s.stand i).ctx.joint, (s.stand i).ctx.vFire,
        (reelIds (s.stand i)).2, closingOutcome (s.stand i)⟩ ∧
      ∃ r ∈ ((s.closing i).endSplice i).log, r.seq = s.nextSeq ∧
        { r with noticeUnacked := false } = s.firedRecord i (closingOutcome (s.stand i)) := by
  have hpast := closingOutcome_past (s.stand i)
  obtain ⟨hclose, hcarries⟩ := closing_outcome h
  obtain ⟨hlog, hseq⟩ := Prod.mk.inj ((ledger_endSplice (s.closing i) i).trans hclose)
  rw [hlog, hseq, ← makeRecord_fired s i hpast]
  exact ⟨nextSeq_writeOutcome s i _, endSplice_carries _ i _ (hcarries _ (writeOutcome_notifies s i hpast)),
    writeOutcome_records s i _⟩

/-- The stand past the close, by its outcome. -/
theorem stand_closing (h : (s.stand i).ctx.state = .cut) : ∃ run d b e a, (s.closing i).stand i = { s.stand i with
      running := run
      queue := closeUp (s.stand i).queue
      dRun := d
      measured := false
      runoutFired := b
      ctx := { (s.stand i).ctx with auto := a }
      events := e } ∧
    ((s.stand i).ctx.excursion = false → run = ((s.stand i).queue.head?.map fun r => ⟨r.id, r.grade⟩) ∧
      d = (s.stand i).dFresh ∧ a = (s.stand i).ctx.auto ∧ hasEvent e .spliced = true) ∧
    ((s.stand i).ctx.excursion = true → run = none ∧ d = (s.stand i).dRun ∧ a = false ∧
      hasEvent e .breakSuspect = true) := by
  cases hx : (s.stand i).ctx.excursion with
  | true =>
    have hclosing : s.closing i = s.broken i := if_pos hx
    rw [hclosing]
    exact ⟨_, _, _, _, _, stand_broken s i, nofun, fun _ => ⟨rfl, rfl, rfl, hasEvent_withEvent _ _⟩⟩
  | false =>
    have hclosing : s.closing i = s.swapped i := if_neg (by simp [hx])
    obtain ⟨-, -, b, e, hstand, hevent⟩ := swapped_spec h
    rw [hclosing]
    exact ⟨_, _, b, e, _, hstand, fun _ => ⟨rfl, rfl, rfl, hevent⟩, nofun⟩

/-- The confirm timer expires in CUT: the splice is closed by its outcome and leaves CUT. -/
theorem confirmEnds_closes (h : (s.stand i).ctx.confirmAt = some s.clock) (hc : (s.stand i).ctx.state = .cut) :
    s.confirmEnds i = ((s.modCtx i fun c => { c with confirmAt := none }).closing i).endSplice i := by
  have hx : ((s.modCtx i fun c => { c with confirmAt := none }).stand i).ctx.excursion = (s.stand i).ctx.excursion := by
    simp
  unfold confirmEnds closing
  dsimp only
  rw [if_pos (due_of_armed h), if_pos hc, hx]
  split <;> rfl

end

end State

end Machine

end Sys2Proof
end

section
open Sys2Proof Sys2Proof.Machine Sys2Proof.Machine.State

/-- Settles O41: the outcome is written first, and what follows it keeps its record and its notice; the context settles by R61 with
no ready head. -/
theorem confirmEndsSplice : Obligations.ConfirmEndsSplice := by
  intro s t i hd hc x rest notice
  let y : State := x.modCtx i fun c => { c with confirmAt := none }
  let z : State := y.closing i
  have hy : y.stand i = { s.stand i with ctx := { (s.stand i).ctx with confirmAt := none } } :=
    (stand_modCtx x i i _).trans (if_pos rfl)
  have hcut : (y.stand i).ctx.state = .cut := by rw [hy]; exact hc
  have hu : x.confirmEnds i = z.endSplice i := confirmEnds_closes (s := x) hd hc
  have hown : OwnChange i (s.setClock t) (z.endSplice i) :=
    (modCtx_own x i _).trans ((closing_own y i).trans (endSplice_own z i))
  have hmode : z.mode = s.mode := ((modCtx_own x i _).trans (closing_own y i)).mode
  obtain ⟨hseq, hnotice, hrecord⟩ := closing_writes hcut
  obtain ⟨run, d, b, e, a, hz, hspliced, hbroken⟩ := stand_closing hcut
  obtain ⟨horn, hst⟩ := stand_endSplice z i
  rw [hmode, restingFor_of_unready s.mode (x := z.stand i) (by rw [hz]; exact head_closeUp_unready _), hz, hy] at hst
  have hfired (o : SpliceOutcome) : y.firedRecord i o = x.firedRecord i o := by
    unfold firedRecord
    rw [hy]
    rfl
  rw [hy] at hnotice hrecord hspliced hbroken
  rw [hfired] at hrecord
  refine ⟨z.endSplice i, congrArg Host.Outcome.next hu, hown.afterClock, hown.clock, hseq, endSplice_withdrawn z i, ?_⟩
  rw [hst]
  refine ⟨rfl, rfl, rfl, rfl, rfl, rfl, rfl, rfl, rfl, rfl, fun he => ?_, fun he => ?_⟩
  · obtain ⟨hrun, hd, ha, hevent⟩ := hspliced he
    have ho : closingOutcome { s.stand i with ctx := { (s.stand i).ctx with confirmAt := none } } = .spliced := by
      simp [closingOutcome, he]
    rw [ho] at hnotice hrecord
    subst ha
    exact ⟨hrun, hd, hevent, rfl, rfl, hnotice, hrecord⟩
  · obtain ⟨hrun, hd, ha, hevent⟩ := hbroken he
    have ho : closingOutcome { s.stand i with ctx := { (s.stand i).ctx with confirmAt := none } } = .breakSuspect := by
      simp [closingOutcome, he]
    rw [ho] at hnotice hrecord
    subst ha
    exact ⟨hrun, hd, hevent, rfl, by simp, hnotice, hrecord⟩
end

section
/-! SUPPORT. What a command may do to the queues of the port and to the reel queues, and that every one of them keeps the
three capacities (O55). -/

namespace Sys2Proof

namespace Machine

/-- A frame being read holds a reservation of a receive queue place (R151). -/
def Reading.holds : Reading → Bool
  | .request _ r => r
  | .none | .header | .onArrival _ => false

theorem Reading.holds_unreserved (r : Reading) : r.unreserved.holds = false := by cases r <;> rfl

/-- The occupied slots of the transmit queue: its entries, and one handed to the request handler (R146). -/
def Port.txFill (p : Port) : Nat := p.tx.length + p.handlerSlot.toNat

/-- The receive queue's fill: its frames, and one place that a frame being read has reserved (R151). -/
def Port.rxFill (p : Port) : Nat := p.rx.length + p.reading.holds.toNat

namespace State

theorem reserved_eq (s : State) : s.reserved = s.port.reading.holds := by
  unfold reserved Reading.holds
  cases s.port.reading <;> rfl

theorem withinCapacity_iff (s : State) :
    s.WithinCapacity ↔ s.port.txFill ≤ 12 ∧ s.port.rxFill ≤ 16 ∧ ∀ i, (s.stand i).queue.length ≤ 3 := by
  rw [WithinCapacity, reserved_eq]
  rfl

theorem hasFree_iff_txFill (s : State) : s.hasFree = true ↔ s.port.txFill < 12 := hasFree_iff s

/-! ### What the operations behind a command keep -/

/-- From `s` to `t` the transmit queue stays within its 12 slots and each reel queue within its 3 places, a slot handed to
the request handler stays handed over, and the receiving side is untouched. -/
structure RoomKept (s t : State) : Prop where
  slots : s.port.txFill ≤ 12 → t.port.txFill ≤ 12
  handed : s.port.handlerSlot = true → t.port.handlerSlot = true
  rx : t.port.rx = s.port.rx
  reading : t.port.reading = s.port.reading
  reels : ∀ i, (s.stand i).queue.length ≤ 3 → (t.stand i).queue.length ≤ 3

theorem RoomKept.refl (s : State) : RoomKept s s := ⟨id, id, rfl, rfl, fun _ => id⟩

theorem RoomKept.trans {s t u : State} (h : RoomKept s t) (k : RoomKept t u) : RoomKept s u where
  slots := k.slots ∘ h.slots
  handed := k.handed ∘ h.handed
  rx := k.rx.trans h.rx
  reading := k.reading.trans h.reading
  reels i := k.reels i ∘ h.reels i

theorem RoomKept.withinCapacity {s t : State} (h : RoomKept s t) (hs : s.WithinCapacity) : t.WithinCapacity := by
  rw [withinCapacity_iff] at hs ⊢
  obtain ⟨htx, hrx, hreels⟩ := hs
  refine ⟨h.slots htx, ?_, fun i => h.reels i (hreels i)⟩
  rwa [Port.rxFill, h.rx, h.reading]

/-- An operation that leaves the port alone. -/
theorem RoomKept.of_port {s t : State} (h : t.port = s.port)
    (hq : ∀ i, (s.stand i).queue.length ≤ 3 → (t.stand i).queue.length ≤ 3) : RoomKept s t where
  slots := by rw [h]; exact id
  handed := by rw [h]; exact id
  rx := by rw [h]
  reading := by rw [h]
  reels := hq

/-- An operation that leaves the port and the reel queues alone. -/
theorem RoomKept.of_untouched {s t : State} (h : t.port = s.port) (hq : ∀ i, (t.stand i).queue = (s.stand i).queue) :
    RoomKept s t := .of_port h fun i => by rw [hq i]; exact id

theorem TxOnly.roomKept {s t : State} (h : TxOnly s t) (hslots : s.port.txFill ≤ 12 → t.port.txFill ≤ 12)
    (hhanded : s.port.handlerSlot = true → t.port.handlerSlot = true) : RoomKept s t where
  slots := hslots
  handed := hhanded
  rx := by rw [h.eq]
  reading := by rw [h.eq]
  reels i := by rw [h.stand i]; exact id

/-- A change of the transmit queue that adds no entry. -/
theorem TxOnly.roomKept_of_le {s t : State} (h : TxOnly s t) (hlen : t.port.tx.length ≤ s.port.tx.length)
    (hslot : t.port.handlerSlot = s.port.handlerSlot) : RoomKept s t :=
  h.roomKept (by unfold Port.txFill; rw [hslot]; omega) (by rw [hslot]; exact id)

/-- An entry is placed where a slot is free (R146). -/
theorem RoomKept.of_placed {s t : State} {e : TxEntry} (hfree : s.hasFree = true) (h : TxOnly s t)
    (htx : t.port.tx = s.port.tx ++ [e]) (hslot : t.port.handlerSlot = s.port.handlerSlot) : RoomKept s t := by
  rw [hasFree_iff_txFill] at hfree
  refine h.roomKept (fun _ => ?_) (by rw [hslot]; exact id)
  rw [Port.txFill] at hfree ⊢
  rw [htx, hslot, List.length_append, List.length_singleton]
  omega

theorem place_roomKept (s : State) (e : TxEntry) (hfree : s.hasFree = true) : RoomKept s (s.place e) :=
  .of_placed hfree (place_txOnly s e) rfl rfl

/-- A change of one stand that leaves its reel queue. -/
theorem modStand_roomKept (s : State) (i : StandNo) (f : Stand → Stand)
    (h : ∀ x, (f x).queue = x.queue := by exact fun _ => rfl) : RoomKept s (s.modStand i f) :=
  .of_untouched rfl fun j => by
    rw [stand_modStand]
    split
    · rename_i e
      rw [h, e]
    · rfl

/-- A change of one stand's reel queue that adds no record beyond the third (R13). -/
theorem modStand_roomKept_of_queue (s : State) (i : StandNo) (f : Stand → Stand)
    (h : (s.stand i).queue.length ≤ 3 → (f (s.stand i)).queue.length ≤ 3) : RoomKept s (s.modStand i f) :=
  .of_port rfl fun j => by
    rw [stand_modStand]
    split
    · rename_i e
      rw [← e]
      exact h
    · exact id

theorem modCtx_roomKept (s : State) (i : StandNo) (f : Context → Context) : RoomKept s (s.modCtx i f) :=
  modStand_roomKept s i _

theorem modLoop_roomKept (s : State) (i : StandNo) (f : Loop → Loop) : RoomKept s (s.modLoop i f) :=
  modStand_roomKept s i _

theorem modOut_roomKept (s : State) (i : StandNo) (f : Output → Output) : RoomKept s (s.modOut i f) :=
  modStand_roomKept s i _

theorem setTracker_roomKept (s : State) (k : SlotNo) (x : Tracker) : RoomKept s (s.setTracker k x) :=
  .of_untouched rfl fun _ => rfl

theorem mapTrackers_roomKept (s : State) (f : SlotNo → Tracker → Tracker) : RoomKept s (s.mapTrackers f) := by
  rw [mapTrackers_rest]
  exact .of_untouched rfl fun _ => rfl

theorem mapStands_roomKept (s : State) (f : StandNo → Stand → Stand) (h : ∀ i x, (f i x).queue = x.queue) :
    RoomKept s (s.mapStands f) :=
  .of_untouched (by rw [mapStands_rest]) fun i => by rw [mapStands_stand, h]

theorem forStands_roomKept (o : List StandNo) (f : StandNo → State → State) (h : ∀ i x, RoomKept x (f i x))
    (s : State) : RoomKept s (forStands o f s) :=
  forStands_keeps o f (RoomKept s) (fun i x hx => hx.trans (h i x)) s (.refl s)

/-! ### The transmit queue (R146, R149) -/

theorem offerReports_roomKept (s : State) (hfree : s.hasFree = true) : RoomKept s s.offerReports := by
  have ho := offerReports_txOnly s
  unfold offerReports at ho ⊢
  split
  · exact TxOnly.roomKept_of_le ⟨rfl⟩ (Nat.le_refl _) rfl
  · split
    · exact .refl s
    · exact .of_placed hfree ⟨rfl⟩ rfl rfl

/-- A slot is offered only where one is free: to the request handler, or to an entry. -/
theorem offer_roomKept (s : State) : RoomKept s s.offer := by
  unfold offer
  split
  · rename_i hfree
    split
    · exact .of_placed hfree ⟨rfl⟩ rfl rfl
    · split
      · exact .of_placed hfree ⟨rfl⟩ rfl rfl
      · split
        · refine TxOnly.roomKept ⟨rfl⟩ (fun _ => ?_) fun _ => rfl
          rw [hasFree_iff_txFill, Port.txFill] at hfree
          have hone : (s.modPort fun p => { p with handlerSlot := true }).port.txFill = s.port.tx.length + 1 := rfl
          omega
        · exact offerReports_roomKept s hfree
  · exact .refl s

theorem offerMany_roomKept (n : Nat) (s : State) : RoomKept s (offerMany n s) := by
  induction n generalizing s with
  | zero => exact .refl s
  | succ n ih => exact (offer_roomKept s).trans (ih s.offer)

theorem owe_roomKept (s : State) (i : StandNo) : RoomKept s (s.owe i) := by
  unfold owe
  split
  · exact .refl s
  · exact TxOnly.roomKept_of_le ⟨rfl⟩ (Nat.le_refl _) rfl

theorem refreshReport_roomKept (s : State) (i : StandNo) : RoomKept s (s.refreshReport i) :=
  (refreshReport_txOnly s i).roomKept_of_le (by simp [refreshReport]) rfl

theorem bringUpReport_roomKept (s : State) (i : StandNo) : RoomKept s (s.bringUpReport i) := by
  unfold bringUpReport
  split
  · exact .refl s
  · split
    · split
      · exact owe_roomKept s i
      · exact refreshReport_roomKept s i
    · split
      · exact place_roomKept s _ ‹_›
      · exact owe_roomKept s i

theorem raise_roomKept (s : State) (i : StandNo) (k : EventKind) : RoomKept s (s.raise i k) := by
  unfold raise
  split
  · exact .refl s
  · exact (modStand_roomKept s i _).trans (bringUpReport_roomKept _ i)

theorem queueDrive_roomKept (s : State) (i : StandNo) (k : DriveKind) : RoomKept s (s.queueDrive i k) := by
  unfold queueDrive
  split
  · exact place_roomKept s _ ‹_›
  · exact TxOnly.roomKept_of_le ⟨rfl⟩ (Nat.le_refl _) rfl

theorem killReferences_roomKept (s : State) (i : StandNo) : RoomKept s (s.killReferences i) :=
  (killReferences_txOnly s i).roomKept_of_le (by simp [killReferences]) rfl

/-- A change of the port that leaves the receiving side and the handed slot, and adds no entry to the transmit queue. -/
theorem modPort_roomKept (s : State) (f : Port → Port) (hlen : (f s.port).tx.length ≤ s.port.tx.length)
    (hslot : (f s.port).handlerSlot = s.port.handlerSlot) (hrx : (f s.port).rx = s.port.rx)
    (hreading : (f s.port).reading = s.port.reading) : RoomKept s (s.modPort f) where
  slots := by
    unfold Port.txFill
    rw [port_modPort, hslot]
    omega
  handed := by
    rw [port_modPort, hslot]
    exact id
  rx := hrx
  reading := hreading
  reels _ := id

/-- The slots that withdrawn REFERENCEs free are offered on (R105, R149). -/
theorem stopLoop_roomKept (s : State) (i : StandNo) : RoomKept s (s.stopLoop i) := by
  unfold stopLoop withdrawReferences
  exact (modLoop_roomKept s i _).trans <| (modPort_roomKept _ _ (List.length_filter_le _ _) rfl rfl rfl).trans <|
    (killReferences_roomKept _ i).trans (offerMany_roomKept _ _)

theorem placeReference_roomKept (s : State) (i : StandNo) (v : Nat) : RoomKept s (s.placeReference i v) := by
  unfold placeReference
  repeat' split
  · exact (modPort_roomKept s _ (by simp) rfl rfl rfl).trans (modLoop_roomKept _ i _)
  · exact (place_roomKept s _ ‹_›).trans (modLoop_roomKept _ i _)
  · exact .refl s

/-- A notice joins the queue where a slot is free, and else waits (R132, R133). -/
theorem sendNotice_roomKept (s : State) (n : Notice) : RoomKept s (s.sendNotice n) := by
  obtain ⟨hplaced, hwaits⟩ := sendNotice_spec s n
  cases hfree : s.hasFree with
  | true =>
    rw [hplaced hfree]
    exact .of_placed hfree ⟨rfl⟩ rfl rfl
  | false =>
    rw [hwaits hfree]
    exact ⟨id, id, rfl, rfl, fun _ => id⟩

theorem markUnacked_roomKept (s : State) (n : SeqNo) : RoomKept s (s.markUnacked n) := .of_untouched rfl fun _ => rfl

theorem writeOutcome_roomKept (s : State) (i : StandNo) (o : SpliceOutcome) : RoomKept s (s.writeOutcome i o) := by
  have hlog (r : SpliceRecord) : RoomKept s (s.logRecord r) := .of_untouched rfl fun _ => rfl
  unfold writeOutcome
  dsimp only
  split
  · exact (hlog _).trans (sendNotice_roomKept _ _)
  · exact hlog _

/-! ### Moves of a splice -/

theorem chooseHorn_roomKept (s : State) (i : StandNo) : RoomKept s (s.chooseHorn i) := by
  unfold chooseHorn
  dsimp only
  split
  · exact .refl s
  · exact modOut_roomKept s i _

theorem enterState_roomKept (s : State) (i : StandNo) (c : CtxState) : RoomKept s (s.enterState i c) :=
  (modCtx_roomKept s i _).trans (chooseHorn_roomKept _ i)

theorem setPrewarn_roomKept (s : State) (i : StandNo) (b : Bool) : RoomKept s (s.setPrewarn i b) :=
  (modCtx_roomKept s i _).trans (chooseHorn_roomKept _ i)

theorem enterRest_roomKept (s : State) (i : StandNo) : RoomKept s (s.enterRest i) :=
  (modCtx_roomKept s i _).trans (chooseHorn_roomKept _ i)

theorem settle_roomKept (s : State) (i : StandNo) : RoomKept s (s.settle i) := by
  unfold settle
  split
  · exact enterRest_roomKept s i
  · exact .refl s

theorem risePrewarn_roomKept (s : State) (i : StandNo) : RoomKept s (s.risePrewarn i) := by
  unfold risePrewarn
  split
  · exact .refl s
  · exact (setPrewarn_roomKept s i true).trans (raise_roomKept _ i _)

theorem clearHeadReady_roomKept (s : State) (i : StandNo) : RoomKept s (s.clearHeadReady i) :=
  modStand_roomKept_of_queue s i _ (by rw [List.length_modifyHead]; exact id)

theorem abort_roomKept (s : State) (i : StandNo) (c : AbortCause) : RoomKept s (s.abort i c) := by
  unfold abort
  exact (enterState_roomKept s i _).trans <| (modOut_roomKept _ i _).trans <| (modCtx_roomKept _ i _).trans <|
    (writeOutcome_roomKept _ i _).trans <| (clearHeadReady_roomKept _ i).trans <| (stopLoop_roomKept _ i).trans <|
    (queueDrive_roomKept _ i _).trans <| (setPrewarn_roomKept _ i _).trans <| (raise_roomKept _ i _).trans
      (modCtx_roomKept _ i _)

theorem abortBeforeFire_roomKept (s : State) (i : StandNo) (c : AbortCause) : RoomKept s (s.abortBeforeFire i c) := by
  unfold abortBeforeFire
  split
  · exact abort_roomKept s i c
  · exact .refl s

theorem enterFireWait_roomKept (s : State) (i : StandNo) : RoomKept s (s.enterFireWait i) := by
  have henter := enterState_roomKept s i .fireWait
  unfold enterFireWait
  dsimp only
  split
  · exact henter.trans (abort_roomKept _ i _)
  · exact henter.trans (modCtx_roomKept _ i _)

theorem lockSet_roomKept (s : State) (i : StandNo) : RoomKept s (s.lockSet i) := by
  have henter := enterState_roomKept s i .matched
  unfold lockSet enterMatched
  dsimp only
  repeat' split
  · exact henter.trans (abort_roomKept _ i _)
  · exact henter.trans (enterFireWait_roomKept _ i)
  · exact henter
  · exact .refl s

theorem lockCleared_roomKept (s : State) (i : StandNo) : RoomKept s (s.lockCleared i) := by
  have hback : RoomKept s (((s.modOut i fun o => { o with pasterAt := none }).modCtx i
      fun x => { x with missingTabAt := none }).enterState i .runUp) :=
    (modOut_roomKept s i _).trans ((modCtx_roomKept _ i _).trans (enterState_roomKept _ i _))
  unfold lockCleared
  split
  · exact hback
  · exact hback
  · exact hback
  · exact .refl s

theorem leaveFireSet_roomKept (s : State) (i : StandNo) : RoomKept s (s.leaveFireSet i) := by
  unfold leaveFireSet
  split
  · exact (modOut_roomKept s i _).trans (enterState_roomKept _ i _)
  · exact .refl s

theorem announceRunout_roomKept (s : State) (i : StandNo) : RoomKept s (s.announceRunout i) := by
  unfold announceRunout
  split
  case h_1 | h_2 | h_3 | h_4 => exact abort_roomKept s i _
  case h_5 | h_6 => exact writeOutcome_roomKept s i _
  all_goals exact .refl s

theorem runoutCheck_roomKept (s : State) (i : StandNo) : RoomKept s (s.runoutCheck i) := by
  unfold runoutCheck
  dsimp only
  split
  · exact (modStand_roomKept s i _).trans ((raise_roomKept _ i _).trans (announceRunout_roomKept _ i))
  · exact .refl s

theorem fixFresh_roomKept (s : State) (i : StandNo) : RoomKept s (s.fixFresh i) := by
  unfold fixFresh
  split
  · exact .refl s
  · exact modStand_roomKept s i _

theorem resetLoop_roomKept (s : State) (i : StandNo) : RoomKept s (s.resetLoop i) := by
  have hkill := (modLoop_roomKept s i fun _ => { Loop.start with activity := .running }).trans
    (killReferences_roomKept _ i)
  unfold resetLoop
  dsimp only
  split
  · exact hkill.trans ((modPort_roomKept _ _ (Nat.le_refl _) rfl rfl rfl).trans (raise_roomKept _ i _))
  · exact hkill

theorem enterRunUp_roomKept (s : State) (i : StandNo) : RoomKept s (s.enterRunUp i) :=
  (enterState_roomKept s i .runUp).trans <| (modCtx_roomKept _ i freshFigures).trans <| (fixFresh_roomKept _ i).trans <|
    (resetLoop_roomKept _ i).trans <| (risePrewarn_roomKept _ i).trans (raise_roomKept _ i .runUpStart)

theorem failInterlock_roomKept (s : State) (i : StandNo) : RoomKept s (s.failInterlock i) := by
  unfold failInterlock
  exact (modOut_roomKept s i _).trans <| (modOut_roomKept _ i _).trans <| (writeOutcome_roomKept _ i _).trans <|
    (stopLoop_roomKept _ i).trans <| (queueDrive_roomKept _ i _).trans <| (enterState_roomKept _ i _).trans <|
    (clearHeadReady_roomKept _ i).trans <| (setPrewarn_roomKept _ i _).trans (modCtx_roomKept _ i _)

/-! ### Line samples and tracker timers -/

theorem predict_roomKept (s : State) (i : StandNo) : RoomKept s (s.predict i) := by
  have hrise := risePrewarn_roomKept s i
  unfold predict
  dsimp only
  repeat' split
  · exact .refl s
  · exact hrise.trans (enterRunUp_roomKept _ i)
  · exact hrise
  · exact enterRunUp_roomKept s i
  · exact .refl s

theorem loopHears_roomKept (s : State) (i : StandNo) (e : SampleEvent) (b : Bool) : RoomKept s (s.loopHears i e b) := by
  unfold loopHears
  repeat' split
  · exact placeReference_roomKept s i _
  all_goals exact .refl s

theorem contextHears_roomKept (s : State) (i : StandNo) (e : SampleEvent) : RoomKept s (s.contextHears i e) := by
  unfold contextHears
  repeat' split
  · exact predict_roomKept s i
  · exact abortBeforeFire_roomKept s i _
  · exact .refl s
  · exact leaveFireSet_roomKept s i
  all_goals exact .refl s

theorem hearMatter_roomKept (b : State) (p : List Byte) (m : Matter) (s : State) : RoomKept s (hearMatter b p m s) := by
  unfold hearMatter
  dsimp only
  split
  · exact loopHears_roomKept s _ _ _
  · exact contextHears_roomKept s _ _

theorem takeSample_roomKept (s : State) (p : List Byte) (o : List Matter) : RoomKept s (s.takeSample p o) := by
  unfold takeSample
  dsimp only
  refine (mapTrackers_roomKept s fun k _ => (s.sampleSlot p k).1).trans ?_
  generalize (s.mapTrackers fun k _ => (s.sampleSlot p k).1) = x
  induction wholeOrder allMatters o generalizing x with
  | nil => exact .refl x
  | cons m l ih => exact (hearMatter_roomKept s p m x).trans (ih _)

theorem tellStands_roomKept (s : State) (k : SlotNo) (o : List StandNo) (f : StandNo → State → State)
    (h : ∀ i x, RoomKept x (f i x)) : RoomKept s (s.tellStands k o f) :=
  forStands_roomKept o _ (fun i x => by
    split
    · exact h i x
    · exact .refl x) s

theorem coastingEnds_roomKept (s : State) (k : SlotNo) (o : List StandNo) : RoomKept s (s.coastingEnds k o) := by
  unfold coastingEnds
  dsimp only
  repeat' split
  · exact (setTracker_roomKept s k _).trans (tellStands_roomKept _ k o _ fun i x => leaveFireSet_roomKept x i)
  · exact setTracker_roomKept s k _
  · exact .refl s

theorem lostEnds_roomKept (s : State) (k : SlotNo) (o : List StandNo) : RoomKept s (s.lostEnds k o) := by
  have htold (x : State) : RoomKept x (x.tellStands k o fun i s => (s.raise i .trackLost).abortBeforeFire i .trackLost) :=
    tellStands_roomKept x k o _ fun i y => (raise_roomKept y i _).trans (abortBeforeFire_roomKept _ i _)
  unfold lostEnds
  dsimp only
  repeat' split
  · exact (setTracker_roomKept s k _).trans (htold _)
  · exact (setTracker_roomKept s k _).trans (htold _)
  · exact (setTracker_roomKept s k _).trans (htold _)
  · exact setTracker_roomKept s k _
  · exact setTracker_roomKept s k _
  · exact .refl s

theorem windowEnds_roomKept (s : State) (k : SlotNo) (o : List StandNo) : RoomKept s (s.windowEnds k o) := by
  unfold windowEnds
  dsimp only
  repeat' split
  · exact (setTracker_roomKept s k _).trans (tellStands_roomKept _ k o _ fun i x => raise_roomKept x i _)
  · exact setTracker_roomKept s k _
  · exact .refl s

/-! ### Reel sensing -/

theorem setChannel_roomKept (s : State) (i : StandNo) (ch : Channel) (c : PulseChannel) :
    RoomKept s (s.setChannel i ch c) := modStand_roomKept s i _ fun x => by cases ch <;> rfl

theorem raiseEnabled_roomKept (s : State) (i : StandNo) (k : EventKind) : RoomKept s (s.raiseEnabled i k) := by
  unfold raiseEnabled
  split
  · exact raise_roomKept s i k
  · exact .refl s

theorem updateChannel_roomKept (s : State) (i : StandNo) (ch : Channel) (c : PulseChannel) :
    RoomKept s (s.updateChannel i ch c) := by
  unfold updateChannel
  dsimp only
  split
  · exact (setChannel_roomKept s i ch c).trans ((raiseEnabled_roomKept _ i _).trans (abortBeforeFire_roomKept _ i _))
  · exact setChannel_roomKept s i ch c

theorem inputChanges_roomKept (s : State) (i : StandNo) (ch : Channel) (b : Bool) : RoomKept s (s.inputChanges i ch b) := by
  unfold inputChanges
  dsimp only
  split
  · exact .refl s
  split
  · exact setChannel_roomKept s i ch _
  · exact (setChannel_roomKept s i ch _).trans ((raiseEnabled_roomKept _ i _).trans (updateChannel_roomKept _ i ch _))

theorem runPeriod_roomKept (s : State) (i : StandNo) (p : Nat) : RoomKept s (s.runPeriod i p) := by
  have hmeasure : RoomKept s (s.measureRunning i p) := by
    unfold measureRunning
    dsimp only
    repeat' split
    all_goals exact modStand_roomKept s i _
  have hcheck := hmeasure.trans (runoutCheck_roomKept _ i)
  unfold runPeriod
  dsimp only
  split
  · exact hcheck.trans (enterFireWait_roomKept _ i)
  · exact hcheck

theorem loopTab_roomKept (s : State) (i : StandNo) : RoomKept s (s.loopTab i) := by
  unfold loopTab unlock detectLock
  dsimp only
  repeat' split
  · exact (modLoop_roomKept s i _).trans ((modLoop_roomKept _ i _).trans (lockCleared_roomKept _ i))
  · exact (modLoop_roomKept s i _).trans (modLoop_roomKept _ i _)
  · exact (modLoop_roomKept s i _).trans <| (modLoop_roomKept _ i _).trans <| (modLoop_roomKept _ i _).trans <|
      (raise_roomKept _ i _).trans (lockSet_roomKept _ i)
  · exact (modLoop_roomKept s i _).trans (modLoop_roomKept _ i _)
  · exact (modLoop_roomKept s i _).trans (modLoop_roomKept _ i _)
  · exact .refl s

theorem armPaster_roomKept (s : State) (i : StandNo) (p : Nat) : RoomKept s (s.armPaster i p) := by
  unfold armPaster
  exact modOut_roomKept s i _

theorem contextTab_roomKept (s : State) (i : StandNo) (p : Nat) : RoomKept s (s.contextTab i p) := by
  unfold contextTab
  dsimp only
  repeat' split
  · exact (modCtx_roomKept s i _).trans ((armPaster_roomKept _ i p).trans (enterState_roomKept _ i _))
  · exact modCtx_roomKept s i _
  · exact (modCtx_roomKept s i _).trans (armPaster_roomKept _ i p)
  · exact .refl s

theorem handOn_roomKept (s : State) (i : StandNo) (ch : Channel) (p : Nat) (b : Bool) :
    RoomKept s (s.handOn i ch p b) := by
  have hfresh : RoomKept s (s.measureFresh i p) := by
    unfold measureFresh
    exact modStand_roomKept s i _
  unfold handOn freshPeriod
  dsimp only
  repeat' split
  · exact runPeriod_roomKept s i p
  · exact hfresh.trans ((loopTab_roomKept _ i).trans (contextTab_roomKept _ i p))
  · exact hfresh.trans ((contextTab_roomKept _ i p).trans (loopTab_roomKept _ i))
  · exact .refl s

theorem changeHolds_roomKept (s : State) (i : StandNo) (ch : Channel) (b : Bool) : RoomKept s (s.changeHolds i ch b) := by
  unfold changeHolds
  dsimp only
  repeat' split
  · exact .refl s
  · exact (updateChannel_roomKept s i ch _).trans (handOn_roomKept _ i ch _ b)
  · exact updateChannel_roomKept s i ch _
  · exact setChannel_roomKept s i ch _
  · exact .refl s

theorem freshStopped_roomKept (s : State) (i : StandNo) : RoomKept s (s.freshStopped i) := by
  unfold freshStopped
  split
  · exact abort_roomKept s i _
  · exact abort_roomKept s i _
  · exact (modCtx_roomKept s i _).trans (enterRest_roomKept _ i)
  · exact .refl s

theorem channelStops_roomKept (s : State) (i : StandNo) (ch : Channel) : RoomKept s (s.channelStops i ch) := by
  unfold channelStops
  dsimp only
  repeat' split
  · exact setChannel_roomKept s i _ _
  · exact (setChannel_roomKept s i _ _).trans ((modStand_roomKept _ i _).trans (freshStopped_roomKept _ i))
  · exact .refl s

theorem announceExcursion_roomKept (s : State) (i : StandNo) : RoomKept s (s.announceExcursion i) := by
  unfold announceExcursion
  split
  case h_1 | h_2 | h_3 => exact abort_roomKept s i _
  case h_4 | h_5 => exact modCtx_roomKept s i _
  case h_6 => exact .refl s

theorem convert_roomKept (s : State) (code : BitVec 12) : RoomKept s (s.convert code) := by
  have hnext : RoomKept s { s with scanNext := s.scanNext + 1 } := .of_untouched rfl fun _ => rfl
  have hdancer (x : State) (i : StandNo) : RoomKept x (x.convertDancer i code) := by
    unfold convertDancer
    dsimp only
    generalize (if insideBand (x.stand i).record code = true then 0
      else capNat 3 ((x.stand i).dancer.excursionRun + 1)) = n
    split
    · exact (modStand_roomKept x i _).trans (announceExcursion_roomKept _ i)
    · exact modStand_roomKept x i _
  unfold convert
  dsimp only
  split
  · exact hnext.trans (hdancer _ _)
  · exact hnext.trans (modStand_roomKept _ _ _)

/-! ### The timers of a splice and the guard -/

theorem setKnife_roomKept (s : State) (i : StandNo) : RoomKept s (s.setKnife i) := by
  unfold setKnife
  dsimp only
  repeat' split
  · exact (modOut_roomKept s i _).trans ((modCtx_roomKept _ i _).trans (raise_roomKept _ i _))
  · exact (modOut_roomKept s i _).trans ((modCtx_roomKept _ i _).trans (raise_roomKept _ i _))
  · exact (modOut_roomKept s i _).trans (modCtx_roomKept _ i _)

theorem pasterEnds_roomKept (s : State) (i : StandNo) : RoomKept s (s.pasterEnds i) := by
  have hfire (x : State) : RoomKept x (x.firePaster i) := by
    unfold firePaster assertPaste takeFigures
    exact (enterState_roomKept x i .pasting).trans <| (modOut_roomKept _ i _).trans <| (modCtx_roomKept _ i _).trans <|
      (setKnife_roomKept _ i).trans <| (modCtx_roomKept _ i _).trans <| (modLoop_roomKept _ i _).trans <|
      (setPrewarn_roomKept _ i _).trans (raise_roomKept _ i .fired)
  unfold pasterEnds
  dsimp only
  repeat' split
  · exact (modOut_roomKept s i _).trans (hfire _)
  · exact modOut_roomKept s i _
  · exact .refl s

theorem knifeEnds_roomKept (s : State) (i : StandNo) : RoomKept s (s.knifeEnds i) := by
  have hassert (x : State) : RoomKept x (x.assertKnife i) := by
    unfold assertKnife
    dsimp only
    split
    · exact .refl x
    · exact modOut_roomKept x i _
  have hfire (x : State) : RoomKept x (x.fireKnife i) := by
    unfold fireKnife startBrake
    exact (enterState_roomKept x i .cut).trans <| (hassert _).trans <| (modOut_roomKept _ i _).trans <|
      (modCtx_roomKept _ i _).trans (queueDrive_roomKept _ i .handover)
  unfold knifeEnds
  dsimp only
  repeat' split
  · exact (modOut_roomKept s i _).trans (hfire _)
  · exact modOut_roomKept s i _
  · exact .refl s

theorem endSplice_roomKept (s : State) (i : StandNo) : RoomKept s (s.endSplice i) :=
  (stopLoop_roomKept s i).trans ((modOut_roomKept _ i _).trans (enterRest_roomKept _ i))

theorem length_closeUp (q : List ReelRecord) : (closeUp q).length = q.length - 1 := by
  rw [closeUp, List.length_modifyHead, List.length_tail]

/-- At the end of the confirm window the head may leave its queue, and no reel joins one (R22, R23, R81). -/
theorem confirmEnds_roomKept (s : State) (i : StandNo) : RoomKept s (s.confirmEnds i) := by
  have hclose (x : State) (f : Stand → Stand) (h : ∀ y, (f y).queue = closeUp y.queue) : RoomKept x (x.modStand i f) :=
    modStand_roomKept_of_queue x i f fun _ => by
      rw [h, length_closeUp]
      omega
  have hbroken (x : State) : RoomKept x (x.endBroken i) := by
    unfold endBroken breakWeb
    exact (writeOutcome_roomKept x i .breakSuspect).trans <| (raise_roomKept _ i .breakSuspect).trans <|
      (hclose _ _ fun _ => rfl).trans <| (modCtx_roomKept _ i _).trans (endSplice_roomKept _ i)
  have hspliced (x : State) : RoomKept x (x.endSpliced i) := by
    unfold endSpliced swap
    exact (writeOutcome_roomKept x i .spliced).trans <| (raise_roomKept _ i .spliced).trans <|
      (hclose _ _ fun _ => rfl).trans <| (runoutCheck_roomKept _ i).trans (endSplice_roomKept _ i)
  unfold confirmEnds
  dsimp only
  repeat' split
  · exact (modCtx_roomKept s i _).trans (hbroken _)
  · exact (modCtx_roomKept s i _).trans (hspliced _)
  · exact modCtx_roomKept s i _
  · exact .refl s

theorem missingTabEnds_roomKept (s : State) (i : StandNo) : RoomKept s (s.missingTabEnds i) := by
  unfold missingTabEnds
  dsimp only
  repeat' split
  · exact (modCtx_roomKept s i _).trans (abort_roomKept _ i _)
  · exact modCtx_roomKept s i _
  · exact .refl s

theorem stoppingEnds_roomKept (s : State) (i : StandNo) : RoomKept s (s.stoppingEnds i) := by
  unfold stoppingEnds
  dsimp only
  repeat' split
  · exact (modCtx_roomKept s i _).trans (enterRest_roomKept _ i)
  · exact modCtx_roomKept s i _
  · exact .refl s

theorem announceLatch_roomKept (s : State) (i : StandNo) : RoomKept s (s.announceLatch i) := by
  unfold announceLatch
  split
  case h_1 | h_2 | h_3 | h_4 => exact abort_roomKept s i _
  case h_5 => exact failInterlock_roomKept s i
  all_goals exact .refl s

theorem guardOpens_roomKept (s : State) (i : StandNo) : RoomKept s (s.guardOpens i) := by
  unfold guardOpens
  dsimp only
  repeat' split
  · exact .refl s
  · exact modOut_roomKept s i _
  · exact (modOut_roomKept s i _).trans <| (modOut_roomKept _ i _).trans <| (raise_roomKept _ i _).trans
      (announceLatch_roomKept _ i)

/-! ### The part mode -/

theorem goRun_roomKept (s : State) (o : List StandNo) : RoomKept s (s.goRun o) :=
  RoomKept.trans (t := { s with mode := .run }) (.of_untouched rfl fun _ => rfl)
    (forStands_roomKept o _ (fun i x => settle_roomKept x i) _)

theorem goHold_roomKept (s : State) (o : List StandNo) : RoomKept s (s.goHold o) :=
  RoomKept.trans (t := { s with mode := .hold }) (.of_untouched rfl fun _ => rfl)
    (forStands_roomKept o _ (fun i x => (abortBeforeFire_roomKept x i .hold).trans (settle_roomKept _ i)) _)

theorem goConfig_roomKept (s : State) (o : List StandNo) : RoomKept s (s.goConfig o) :=
  RoomKept.trans (t := { s with mode := .config }) (.of_untouched rfl fun _ => rfl) <|
    (mapStands_roomKept _ (fun _ x => { x with lock := none }) fun _ _ => rfl).trans
    (forStands_roomKept o _ (fun i x => (modCtx_roomKept x i _).trans (settle_roomKept _ i)) _)

theorem setModeRun_roomKept (s : State) (o : List StandNo) : RoomKept s (s.setModeRun o).state := by
  unfold setModeRun
  repeat' split
  · exact goRun_roomKept s o
  · exact .refl s
  · exact goRun_roomKept s o
  · exact .refl s

theorem setModeHold_roomKept (s : State) (o : List StandNo) : RoomKept s (s.setModeHold o).state := by
  unfold setModeHold
  split
  · exact goHold_roomKept s o
  · exact .refl s
  · exact .refl s

theorem setModeConfig_roomKept (s : State) (o : List StandNo) : RoomKept s (s.setModeConfig o).state := by
  unfold setModeConfig
  repeat' split
  · exact .refl s
  · exact goConfig_roomKept s o
  · exact .refl s
  · exact goConfig_roomKept s o
  · exact .refl s

/-! ### Requests of one stand -/

theorem autoOn_roomKept (s : State) (i : StandNo) : RoomKept s (s.autoOn i).state := by
  unfold autoOn
  split
  · exact .refl s
  · exact (modCtx_roomKept s i _).trans (settle_roomKept _ i)

theorem autoOff_roomKept (s : State) (i : StandNo) : RoomKept s (s.autoOff i).state := by
  unfold autoOff
  split
  · exact .refl s
  · exact (modCtx_roomKept s i _).trans (settle_roomKept _ i)

theorem spliceNow_roomKept (s : State) (i : StandNo) : RoomKept s (s.spliceNow i).state := by
  have hearly (x : State) : RoomKept x (x.setEarly i) := modCtx_roomKept x i _
  unfold spliceNow
  repeat' split
  · exact (enterRunUp_roomKept s i).trans (hearly _)
  · exact .refl s
  · exact hearly s
  · exact (hearly s).trans (enterFireWait_roomKept _ i)
  all_goals exact .refl s

theorem abortOrder_roomKept (s : State) (i : StandNo) : RoomKept s (s.abortOrder i).state := by
  unfold abortOrder
  split
  case h_1 | h_2 | h_3 | h_4 => exact abort_roomKept s i _
  all_goals exact .refl s

theorem manualOn_roomKept (s : State) (i : StandNo) : RoomKept s (s.manualOn i).state := by
  have hset (b : Bool) : RoomKept s (if b then s else s.modLoop i fun l => { l with manual := true, mode := .track }) := by
    split
    · exact .refl s
    · exact modLoop_roomKept s i _
  unfold manualOn
  split
  case h_1 | h_2 => exact hset _
  all_goals exact .refl s

theorem manualOff_roomKept (s : State) (i : StandNo) : RoomKept s (s.manualOff i).state := by
  have hclear (b : Bool) : RoomKept s (if b then
      s.modLoop i fun l => { l with manual := false, mode := if l.locked then .track else .acquire } else s) := by
    split
    · exact modLoop_roomKept s i _
    · exact .refl s
  unfold manualOff
  split
  case h_1 | h_2 => exact hclear _
  all_goals exact .refl s

/-- A change of a reel queue that adds no record beyond the third, after which the context settles. -/
theorem queueSettled_roomKept (s : State) (i : StandNo) (f : Stand → Stand)
    (h : (s.stand i).queue.length ≤ 3 → (f (s.stand i)).queue.length ≤ 3) : RoomKept s ((s.modStand i f).settle i) :=
  (modStand_roomKept_of_queue s i f h).trans (settle_roomKept _ i)

/-- ADD REEL is refused FULL where a queue holds 3 records (R15). -/
theorem addReel_roomKept (s : State) (i : StandNo) (r : ReelRecord) : RoomKept s (s.addReel i r).state := by
  unfold addReel
  repeat' split
  · exact .refl s
  · exact .refl s
  · rename_i hroom
    refine queueSettled_roomKept s i _ fun _ => ?_
    rw [List.length_append, List.length_singleton]
    exact hroom
  · exact .refl s
  · exact .refl s

theorem length_withoutReel (id : ReelId) (q : List ReelRecord) : (withoutReel id q).length ≤ q.length := by
  induction q with
  | nil => exact Nat.le_refl _
  | cons r rest ih =>
    unfold withoutReel
    split
    · simp
    · exact Nat.succ_le_succ ih

theorem dropReel_roomKept (s : State) (i : StandNo) (id : ReelId) : RoomKept s (s.dropReel i id).state := by
  unfold dropReel
  split
  · exact .refl s
  · exact queueSettled_roomKept s i _ (Nat.le_trans (length_withoutReel id _))

theorem markReady_roomKept (s : State) (i : StandNo) (id : ReelId) : RoomKept s (s.markReady i id).state := by
  unfold markReady
  repeat' split
  · exact queueSettled_roomKept s i _ (by rw [List.length_modifyHead]; exact fun h => h)
  · exact .refl s
  · exact .refl s

theorem setRunning_roomKept (s : State) (i : StandNo) (r : RunningReel) (d : Option Nat) :
    RoomKept s (s.setRunning i r d).state := by
  unfold setRunning
  repeat' split
  · exact .refl s
  · exact .refl s
  · exact (modStand_roomKept s i _).trans ((runoutCheck_roomKept _ i).trans (settle_roomKept _ i))
  all_goals exact .refl s

theorem clearRunning_roomKept (s : State) (i : StandNo) : RoomKept s (s.clearRunning i).state := by
  unfold clearRunning
  split
  · exact (modStand_roomKept s i _).trans (settle_roomKept _ i)
  · exact .refl s

theorem replaceRecord_roomKept (s : State) (i : StandNo) (r : StandRecord) : RoomKept s (s.replaceRecord i r) := by
  have htuned (h : SlotNo → Tracker → Tracker) : RoomKept s ((s.modStand i fun x =>
      { x with record := r, measured := x.measured && r.webSlot == (s.stand i).record.webSlot }).mapTrackers h) :=
    (modStand_roomKept s i _).trans (mapTrackers_roomKept _ h)
  unfold replaceRecord
  dsimp only
  repeat' split
  · exact htuned _
  · exact (htuned _).trans (settle_roomKept _ i)
  · exact (htuned _).trans ((modCtx_roomKept _ i _).trans (settle_roomKept _ i))

/-! ### The answers to requests -/

theorem lockedOrder_roomKept (code : Nat) (ok : State → Bool) (act : State → StandNo → Answer)
    (h : ∀ x i, RoomKept x (act x i).state) (f : Frame) (s : State) : RoomKept s (lockedOrder code ok act f s).state :=
  orderSteps_state (.refl s) (needStand_state (.refl s) fun i => needLock_state (.refl s) (h s i))

theorem answerAbort_roomKept (f : Frame) (s : State) : RoomKept s (answerAbort f s).state :=
  orderSteps_state (.refl s) (needStand_state (.refl s) fun i => abortOrder_roomKept s i)

theorem answerPutGrade_roomKept (f : Frame) (s : State) : RoomKept s (answerPutGrade f s).state := by
  refine needLength_state (.refl s) ?_
  unfold putGrade
  repeat' split
  all_goals exact .of_untouched rfl fun _ => rfl

theorem answerPutStand_roomKept (f : Frame) (s : State) : RoomKept s (answerPutStand f s).state := by
  refine needLength_state (.refl s) (needStand_state (.refl s) fun i => ?_)
  unfold putStand
  repeat' split
  · exact .refl s
  · exact replaceRecord_roomKept s i _
  · exact .refl s
  · exact .refl s

theorem answerPutLine_roomKept (f : Frame) (s : State) : RoomKept s (answerPutLine f s).state := by
  refine needLength_state (.refl s) ?_
  rw [putLine_eq]
  repeat' split
  · dsimp only [grant]
    rw [withLine_rest]
    exact .of_untouched rfl fun _ => rfl
  · exact .refl s
  · exact .refl s

theorem answerSetGroups_roomKept (f : Frame) (s : State) : RoomKept s (answerSetGroups f s).state := by
  refine needLength_state (.refl s) ?_
  unfold setGroups
  repeat' split
  · dsimp only [grant]
    exact modPort_roomKept s _ (Nat.le_refl _) rfl rfl rfl
  all_goals exact .refl s

theorem answerAddReel_roomKept (f : Frame) (s : State) : RoomKept s (answerAddReel f s).state := by
  refine needLength_state (.refl s) (needStand_state (.refl s) fun i => needLock_state (.refl s) ?_)
  dsimp only
  repeat' split
  · exact .refl s
  · exact addReel_roomKept s i _
  · exact .refl s

theorem answerDropReel_roomKept (f : Frame) (s : State) : RoomKept s (answerDropReel f s).state := by
  refine needLength_state (.refl s) ?_
  dsimp only
  repeat' split
  · exact .refl s
  · exact .refl s
  · exact needLock_state (.refl s) (dropReel_roomKept s _ _)

theorem answerMarkReady_roomKept (f : Frame) (s : State) : RoomKept s (answerMarkReady f s).state :=
  needLength_state (.refl s) (needStand_state (.refl s) fun i => needLock_state (.refl s) (markReady_roomKept s i _))

theorem answerSetRunning_roomKept (f : Frame) (s : State) : RoomKept s (answerSetRunning f s).state := by
  refine needLength_state (.refl s) (needStand_state (.refl s) fun i => needLock_state (.refl s) ?_)
  repeat' split
  · exact clearRunning_roomKept s i
  · exact .refl s
  · exact setRunning_roomKept s i _ _

theorem answerTakeControl_roomKept (f : Frame) (s : State) : RoomKept s (answerTakeControl f s).state := by
  have htake (i : StandNo) : RoomKept s (s.takeControl f i).state := by
    unfold takeControl
    split
    · dsimp only [controlAnswer]
      exact modStand_roomKept s i _
    · exact .refl s
  unfold answerTakeControl
  repeat' split
  · exact .refl s
  · exact .refl s
  · exact htake _

theorem answerGiveControl_roomKept (f : Frame) (s : State) : RoomKept s (answerGiveControl f s).state := by
  have hgive (i : StandNo) : RoomKept s (s.giveControl f i).state := by
    unfold giveControl
    repeat' split
    · exact .refl s
    · dsimp only [controlAnswer]
      exact modStand_roomKept s i _
    · exact .refl s
  unfold answerGiveControl
  repeat' split
  · exact .refl s
  · exact .refl s
  · exact hgive _

theorem answerClearInterlock_roomKept (f : Frame) (s : State) : RoomKept s (answerClearInterlock f s).state := by
  have hclear (i : StandNo) : RoomKept s (s.clearInterlock i).state := by
    unfold clearInterlock
    dsimp only
    repeat' split
    · exact .refl s
    · dsimp only [grant]
      exact modOut_roomKept s i _
    · exact .refl s
  refine needLength_state (.refl s) ?_
  split
  · exact needStand_state (.refl s) hclear
  · exact .refl s

theorem answerClearEvents_roomKept (f : Frame) (s : State) : RoomKept s (answerClearEvents f s).state := by
  have hclear (i : StandNo) (codes : List Nat) : RoomKept s (s.clearMarks i codes).state := by
    unfold clearMarks
    split
    · dsimp only [grant]
      exact modStand_roomKept s i _
    · exact .refl s
  refine needLength_state (.refl s) ?_
  split
  · exact needLength_state (.refl s) (needStand_state (.refl s) fun i => hclear i _)
  · exact .refl s

/-! ### The request handler -/

/-- What the handler needs of a request's effect: the capacities stay, and with a slot handed over for the reply the transmit
queue has a place for it afterwards (R146, R157). -/
structure LeavesReplySlot (s t : State) : Prop where
  within : s.WithinCapacity → t.WithinCapacity
  slot : s.WithinCapacity → s.port.handlerSlot = true → t.port.tx.length < 12

theorem RoomKept.leavesReplySlot {s t : State} (h : RoomKept s t) : LeavesReplySlot s t where
  within := h.withinCapacity
  slot hs hslot := by
    have htx := h.slots ((withinCapacity_iff s).1 hs).1
    have hone : t.port.txFill = t.port.tx.length + 1 := by
      unfold Port.txFill
      rw [h.handed hslot]
      rfl
    omega

/-- A change of the port alone that keeps its two queues within their capacities. -/
theorem withinCapacity_modPort {s : State} {f : Port → Port} (hs : s.WithinCapacity)
    (htx : s.port.txFill ≤ 12 → (f s.port).txFill ≤ 12) (hrx : s.port.rxFill ≤ 16 → (f s.port).rxFill ≤ 16) :
    (s.modPort f).WithinCapacity := by
  rw [withinCapacity_iff] at hs ⊢
  exact ⟨htx hs.1, hrx hs.2.1, hs.2.2⟩

theorem setClock_withinCapacity {s : State} (hs : s.WithinCapacity) (t : Time) : (s.setClock t).WithinCapacity := hs

theorem popFrame_withinCapacity {s : State} (hs : s.WithinCapacity) : s.popFrame.WithinCapacity :=
  withinCapacity_modPort hs id fun h => by
    simp only [Port.rxFill, List.length_tail] at h ⊢
    omega

theorem returnSlot_withinCapacity {s : State} (hs : s.WithinCapacity) : s.returnSlot.WithinCapacity := by
  unfold returnSlot
  split
  · refine (offer_roomKept _).withinCapacity (withinCapacity_modPort hs (fun h => ?_) id)
    simp only [Port.txFill, Bool.toNat_false] at h ⊢
    omega
  · exact hs

theorem refreshLocks_roomKept (s : State) (b : Byte) : RoomKept s (s.refreshLocks b) := by
  unfold refreshLocks
  exact mapStands_roomKept s _ fun _ _ => rfl

/-- A frame is taken for a reply only with a slot handed over already, or a free one to hand over (R157). -/
theorem takeFrame_withinCapacity {s : State} (hs : s.WithinCapacity) (hc : s.canReply = true) (f : Frame) :
    (s.takeFrame f).WithinCapacity ∧ (s.takeFrame f).port.handlerSlot = true := by
  have hlocks := refreshLocks_roomKept (s.popFrame.modPort fun p => { p with handlerSlot := true }) f.sender
  have hroom : s.port.tx.length < 12 := by
    have hfill := ((withinCapacity_iff s).1 hs).1
    rw [canReply, Bool.or_eq_true, Bool.and_eq_true, hasFree_iff_txFill] at hc
    unfold Port.txFill at hfill hc
    rcases hc with hslot | ⟨hfree, -⟩
    · rw [hslot, Bool.toNat_true] at hfill
      omega
    · omega
  have htaken : (s.popFrame.modPort fun p => { p with handlerSlot := true }).WithinCapacity :=
    withinCapacity_modPort (popFrame_withinCapacity hs) (fun _ => hroom) id
  exact ⟨hlocks.withinCapacity htaken, hlocks.handed rfl⟩

theorem placeReply_withinCapacity {s : State} (hs : s.WithinCapacity) (htx : s.port.tx.length < 12) (f : Frame) (r : Result)
    (d : List Byte) : (s.placeReply f r d).WithinCapacity := by
  rw [withinCapacity_iff] at hs ⊢
  refine ⟨?_, hs.2⟩
  have hfill : (s.placeReply f r d).port.txFill = s.port.tx.length + 1 := by
    simp [placeReply, place, Port.txFill]
  omega

/-- A request row keeps the capacities when its answer does, and leaves a place for the reply. -/
theorem handle_withinCapacity {s : State} (hs : s.WithinCapacity) (t : Time) (takes : Frame → Bool) (ask : Bool)
    {body : Frame → State → Answer} (h : ∀ f x, LeavesReplySlot x (body f x).state) :
    ((s.setClock t).handle takes ask body).WithinCapacity := by
  have hpop : (s.setClock t).popFrame.returnSlot.WithinCapacity := returnSlot_withinCapacity (popFrame_withinCapacity hs)
  unfold handle
  repeat' split
  · exact hs
  · rename_i f rest _ _ _ hc
    obtain ⟨htaken, hslot⟩ := takeFrame_withinCapacity (setClock_withinCapacity hs t) hc f
    exact placeReply_withinCapacity ((h f _).within htaken) ((h f _).slot htaken hslot) f _ _
  · exact hs
  · exact hpop
  · exact (h _ _).within hpop
  · exact hs

/-- A request row whose answer keeps the room of the queues. -/
theorem handle_withinCapacity_of_room {s : State} (hs : s.WithinCapacity) (t : Time) (takes : Frame → Bool) (ask : Bool)
    {body : Frame → State → Answer} (h : ∀ f x, RoomKept x (body f x).state) :
    ((s.setClock t).handle takes ask body).WithinCapacity :=
  handle_withinCapacity hs t takes ask fun f x => (h f x).leavesReplySlot

/-- A request row that only reads. -/
theorem handle_withinCapacity_of_reads {s : State} (hs : s.WithinCapacity) (t : Time) (takes : Frame → Bool) (ask : Bool)
    {body : Frame → State → Answer} (h : ∀ f x, (body f x).state = x) :
    ((s.setClock t).handle takes ask body).WithinCapacity :=
  handle_withinCapacity_of_room hs t takes ask fun f x => by rw [h]; exact .refl x

/-- RESTART empties both queues of the port and releases the reservation; it takes the handed slot back, and the reply has
the emptied queue (R156, R171). -/
theorem answerRestart_leavesReplySlot (f : Frame) (s : State) : LeavesReplySlot s (answerRestart f s).state := by
  unfold answerRestart
  split
  · have hport : s.restarted.port = s.port.restart := by rw [restarted_rest]
    refine ⟨fun hs => ?_, fun _ _ => ?_⟩
    · rw [withinCapacity_iff] at hs ⊢
      refine ⟨?_, ?_, fun i => ?_⟩
      · show s.restarted.port.txFill ≤ 12
        rw [hport]
        exact Nat.zero_le _
      · show s.restarted.port.rxFill ≤ 16
        rw [hport]
        simp [Port.rxFill, Port.restart, Reading.holds_unreserved]
      · show (s.restarted.stand i).queue.length ≤ 3
        rw [restarted_stand]
        exact hs.2.2 i
    · show s.restarted.port.tx.length < 12
      rw [hport]
      exact Nat.zero_lt_succ _
  · exact (RoomKept.refl s).leavesReplySlot

theorem discardPartVerb_withinCapacity {s : State} (hs : s.WithinCapacity) : s.discardPartVerb.WithinCapacity := by
  unfold discardPartVerb
  repeat' split
  · exact hs
  · exact returnSlot_withinCapacity (popFrame_withinCapacity hs)
  · exact hs

/-! ### The port -/

theorem handSample_roomKept (p : List Byte) (o : List Matter) (a : Header) (s : State) :
    RoomKept s (handSample p o a s) := by
  unfold handSample
  split
  · exact takeSample_roomKept s p o
  · exact .refl s

theorem handHold_roomKept (o : List StandNo) (a : Header) (s : State) : RoomKept s (handHold o a s) := by
  unfold handHold
  split
  · exact goHold_roomKept s o
  · exact .refl s
  · exact .refl s

/-- A change of the port that leaves the transmit side, reserves nothing and admits no frame. -/
theorem reading_withinCapacity {s : State} {f : Port → Port} (hs : s.WithinCapacity) (htx : (f s.port).tx = s.port.tx)
    (hslot : (f s.port).handlerSlot = s.port.handlerSlot) (hrx : (f s.port).rx = s.port.rx)
    (hreading : (f s.port).reading.holds = false) : (s.modPort f).WithinCapacity :=
  withinCapacity_modPort hs (by unfold Port.txFill; rw [htx, hslot]; exact id) fun h => by
    unfold Port.rxFill at h ⊢
    rw [hrx, hreading, Bool.toNat_false]
    omega

theorem readPayload_withinCapacity {s : State} (hs : s.WithinCapacity) (p : List Byte) (c : Byte) :
    (s.readPayload p c).WithinCapacity := reading_withinCapacity hs rfl rfl rfl rfl

theorem arrivalEnds_withinCapacity {s : State} (hs : s.WithinCapacity) (v : Byte) (p : List Byte) (c : Byte)
    {handOn : Header → State → State} (h : ∀ a x, RoomKept x (handOn a x)) :
    (s.arrivalEnds v p c handOn).WithinCapacity := by
  unfold arrivalEnds
  repeat' split
  · exact (h _ _).withinCapacity (withinCapacity_modPort (readPayload_withinCapacity hs p c) id id)
  · exact readPayload_withinCapacity hs p c
  all_goals exact hs

/-- A frame takes the place in the receive queue that its header reserved (R151, R152). -/
theorem requestEnds_withinCapacity {s : State} (hs : s.WithinCapacity) (p : List Byte) (c : Byte) :
    (s.requestEnds p c).WithinCapacity := by
  unfold requestEnds
  repeat' split
  · rename_i h r hreading _ hgood
    obtain ⟨rfl, -⟩ := (Bool.and_eq_true _ _).mp hgood
    rw [withinCapacity_iff] at hs ⊢
    refine ⟨hs.1, ?_, hs.2.2⟩
    have hbefore : s.port.rxFill = s.port.rx.length + 1 := by
      unfold Port.rxFill
      rw [hreading]
      rfl
    have hafter : (((s.readPayload p c).modPort fun q =>
        { q with payloadAck := toOneStation h, rx := q.rx ++ [frameOf h p] }).port).rxFill = s.port.rx.length + 1 := by
      simp [Port.rxFill, readPayload, Reading.holds]
    rw [hafter, ← hbefore]
    exact hs.2.1
  · exact readPayload_withinCapacity hs p c
  all_goals exact hs

/-- A place is reserved only below a fill of 16 (R151). -/
theorem followHeader_room (s : State) (h : Header) (hr : (s.followHeader h).1.holds = true) : s.port.rxFill < 16 := by
  have hfill : s.rxFill = s.port.rxFill := by
    unfold State.rxFill Port.rxFill
    rw [reserved_eq]
  unfold followHeader at hr
  repeat' split at hr
  · cases hr
  · rename_i hadmits
    rw [admits, Bool.and_eq_true, decide_eq_true_eq, hfill] at hadmits
    exact hadmits.1
  · cases hr
  · cases hr

theorem headerEnds_withinCapacity {s : State} (hs : s.WithinCapacity) (h : Header) (c : Byte) :
    (s.headerEnds h c).WithinCapacity := by
  unfold headerEnds
  split
  · dsimp only
    split
    · refine withinCapacity_modPort hs id fun hfill => ?_
      have hroom := followHeader_room s h
      show s.port.rx.length + (s.followHeader h).1.holds.toNat ≤ 16
      unfold Port.rxFill at hfill hroom
      cases hr : (s.followHeader h).1.holds with
      | true => exact Nat.lt_of_le_of_lt (Nat.le_add_right _ _) (hroom hr)
      | false => exact Nat.le_trans (Nat.le_add_right _ _) hfill
    · exact reading_withinCapacity hs rfl rfl rfl rfl
  · exact hs

theorem abandonFrame_withinCapacity {s : State} (hs : s.WithinCapacity) (l : List Bool) :
    (s.abandonFrame l).WithinCapacity := by
  unfold abandonFrame
  dsimp only
  split
  · exact hs
  · exact reading_withinCapacity hs rfl rfl rfl rfl

theorem becomesIdle_withinCapacity {s : State} (hs : s.WithinCapacity) (l : List Bool) :
    (s.becomesIdle l).WithinCapacity := by
  unfold becomesIdle
  dsimp only
  split
  · exact hs
  · exact reading_withinCapacity hs rfl rfl rfl rfl

theorem startsReading_withinCapacity {s : State} (hs : s.WithinCapacity) : s.startsReading.WithinCapacity := by
  unfold startsReading
  split
  · exact reading_withinCapacity hs rfl rfl rfl rfl
  · exact hs

theorem entersStuck_withinCapacity {s : State} (hs : s.WithinCapacity) (l : List Bool) (o : List StandNo) :
    (s.entersStuck l o).WithinCapacity := by
  unfold entersStuck
  dsimp only
  split
  · exact hs
  · exact (forStands_roomKept o _ (fun i x => abortBeforeFire_roomKept x i _) _).withinCapacity
      (reading_withinCapacity hs rfl rfl rfl rfl)

theorem length_beginEntry (e : TxEntry) (tx : List TxEntry) : (beginEntry e tx).length = tx.length := by
  induction tx with
  | nil => rfl
  | cons x rest ih =>
    unfold beginEntry
    split
    · rfl
    · exact congrArg Nat.succ ih

theorem beginsFrame_withinCapacity {s : State} (hs : s.WithinCapacity) (r : List Contestant) :
    (s.beginsFrame r).WithinCapacity := by
  unfold beginsFrame
  repeat' split
  · exact hs
  · refine withinCapacity_modPort hs (fun h => ?_) fun h => ?_
    · simp only [Port.txFill, length_beginEntry] at h ⊢
      exact h
    · simp only [Port.rxFill, Reading.holds, Bool.toNat_false] at h ⊢
      omega
  · exact hs

/-- A lost contest adds no entry to the transmit queue but those that a slot it frees is offered to. -/
theorem entryLoses_roomKept (s : State) : RoomKept s s.entryLoses := by
  have hunbegin (x : State) : RoomKept x x.unbegin := modPort_roomKept x _ (by simp [mapBegun]) rfl rfl rfl
  unfold entryLoses referenceLoses reportLoses
  repeat' split
  · exact .refl s
  · exact (modPort_roomKept s _ (List.length_filter_le _ _) rfl rfl rfl).trans (offer_roomKept _)
  · exact hunbegin s
  · refine ((modPort_roomKept s _ ?_ rfl rfl rfl).trans (hunbegin _)).trans (offer_roomKept _)
    rw [List.length_map]
    exact List.length_filter_le _ _
  · exact (modPort_roomKept s _ (Nat.le_refl _) rfl rfl rfl).trans ((hunbegin _).trans (refreshReport_roomKept _ _))
  all_goals exact hunbegin s

theorem losesContest_withinCapacity {s : State} (hs : s.WithinCapacity) : s.losesContest.WithinCapacity := by
  unfold losesContest
  repeat' split
  · exact hs
  · exact hs
  · exact (entryLoses_roomKept _).withinCapacity (reading_withinCapacity hs rfl rfl rfl rfl)

theorem referenceOutcome_roomKept (s : State) (i : StandNo) (r : TxOutcome) : RoomKept s (s.referenceOutcome i r) := by
  have hfailed (n : Nat) : RoomKept s (if n = 2 then
      ((s.modLoop i fun l => { l with noAckRun := capNat 3 (n + 1) }).raise i .driveFault).abortBeforeFire i .driveFault
      else s.modLoop i fun l => { l with noAckRun := capNat 3 (n + 1) }) := by
    split
    · exact (modLoop_roomKept s i _).trans ((raise_roomKept _ i _).trans (abortBeforeFire_roomKept _ i _))
    · exact modLoop_roomKept s i _
  unfold referenceOutcome
  split
  · exact modLoop_roomKept s i _
  · exact hfailed _
  · exact hfailed _

theorem driveOutcome_roomKept (s : State) (i : StandNo) (r : TxOutcome) : RoomKept s (s.driveOutcome i r) := by
  unfold driveOutcome
  split
  · exact .refl s
  · exact raise_roomKept s i _
  · exact raise_roomKept s i _

theorem handOutcome_roomKept (s : State) (e : TxEntry) (r : TxOutcome) : RoomKept s (s.handOutcome e r) := by
  unfold handOutcome noticeOutcome
  repeat' split
  · exact referenceOutcome_roomKept s _ r
  · exact .refl s
  · exact driveOutcome_roomKept s _ r
  · exact driveOutcome_roomKept s _ r
  · exact .refl s
  · exact markUnacked_roomKept s _
  · exact markUnacked_roomKept s _
  · exact .refl s
  · exact .refl s

theorem frameEnds_roomKept (s : State) (e : LineEnd) : RoomKept s (s.frameEnds e) := by
  have hends (x : State) (r : TxOutcome) : RoomKept x (x.entryEnds r) := by
    unfold entryEnds
    split
    · exact .refl x
    · exact (handOutcome_roomKept x _ r).trans <|
        (modPort_roomKept _ _ (List.length_filter_le _ _) rfl rfl rfl).trans (offer_roomKept _)
  unfold frameEnds
  repeat' split
  · exact .refl s
  · exact (modPort_roomKept s _ (Nat.le_refl _) rfl rfl rfl).trans (hends _ _)
  · exact .refl s

/-- Power-on empties every queue (R155). -/
theorem poweredOn_withinCapacity (s : State) (pins : Pins) : (s.poweredOn pins).WithinCapacity := by
  rw [withinCapacity_iff]
  exact ⟨Nat.zero_le _, Nat.zero_le _, fun i => by rw [stand_poweredOn]; exact Nat.zero_le _⟩

/-! ### Every command -/

theorem RoomKept.timed {s u : State} {t : Time} (h : RoomKept (s.setClock t) u) (hs : s.WithinCapacity) :
    u.WithinCapacity := h.withinCapacity (setClock_withinCapacity hs t)

/-- Every command keeps the capacities. -/
theorem exec_withinCapacity {s : State} (hs : s.WithinCapacity) (c : Instr) :
    ∃ u, exec c s = .next u ∧ u.WithinCapacity := by
  cases c with
  | powerOn pins => exact ⟨_, rfl, poweredOn_withinCapacity s pins⟩
  | askStatus t => exact ⟨_, rfl, handle_withinCapacity_of_reads hs t _ _ fun _ _ => rfl⟩
  | askStand t => exact ⟨_, rfl, handle_withinCapacity_of_reads hs t _ _ answerAskStand_state⟩
  | askGrade t => exact ⟨_, rfl, handle_withinCapacity_of_reads hs t _ _ answerAskGrade_state⟩
  | askQueue t => exact ⟨_, rfl, handle_withinCapacity_of_reads hs t _ _ answerAskQueue_state⟩
  | askLog t => exact ⟨_, rfl, handle_withinCapacity_of_reads hs t _ _ answerAskLog_state⟩
  | askLine t => exact ⟨_, rfl, handle_withinCapacity_of_reads hs t _ _ fun _ _ => rfl⟩
  | putGrade t => exact ⟨_, rfl, handle_withinCapacity_of_room hs t _ _ answerPutGrade_roomKept⟩
  | putStand t => exact ⟨_, rfl, handle_withinCapacity_of_room hs t _ _ answerPutStand_roomKept⟩
  | putLine t => exact ⟨_, rfl, handle_withinCapacity_of_room hs t _ _ answerPutLine_roomKept⟩
  | setGroups t => exact ⟨_, rfl, handle_withinCapacity_of_room hs t _ _ answerSetGroups_roomKept⟩
  | addReel t => exact ⟨_, rfl, handle_withinCapacity_of_room hs t _ _ answerAddReel_roomKept⟩
  | dropReel t => exact ⟨_, rfl, handle_withinCapacity_of_room hs t _ _ answerDropReel_roomKept⟩
  | markReady t => exact ⟨_, rfl, handle_withinCapacity_of_room hs t _ _ answerMarkReady_roomKept⟩
  | setRunning t => exact ⟨_, rfl, handle_withinCapacity_of_room hs t _ _ answerSetRunning_roomKept⟩
  | setModeRun t o =>
    exact ⟨_, rfl, handle_withinCapacity_of_room hs t _ _ fun f x => setMode_state (.refl x) (setModeRun_roomKept x o)⟩
  | setModeHold t o =>
    exact ⟨_, rfl, handle_withinCapacity_of_room hs t _ _ fun f x => setMode_state (.refl x) (setModeHold_roomKept x o)⟩
  | setModeConfig t o =>
    exact ⟨_, rfl, handle_withinCapacity_of_room hs t _ _ fun f x => setMode_state (.refl x) (setModeConfig_roomKept x o)⟩
  | standOrderAutoOn t =>
    exact ⟨_, rfl, handle_withinCapacity_of_room hs t _ _ (lockedOrder_roomKept 1 _ _ autoOn_roomKept)⟩
  | standOrderAutoOff t =>
    exact ⟨_, rfl, handle_withinCapacity_of_room hs t _ _ (lockedOrder_roomKept 2 _ _ autoOff_roomKept)⟩
  | standOrderSpliceNow t =>
    exact ⟨_, rfl, handle_withinCapacity_of_room hs t _ _ (lockedOrder_roomKept 3 _ _ spliceNow_roomKept)⟩
  | standOrderAbort t => exact ⟨_, rfl, handle_withinCapacity_of_room hs t _ _ answerAbort_roomKept⟩
  | standOrderManualTrackOn t =>
    exact ⟨_, rfl, handle_withinCapacity_of_room hs t _ _ (lockedOrder_roomKept 5 _ _ manualOn_roomKept)⟩
  | standOrderManualTrackOff t =>
    exact ⟨_, rfl, handle_withinCapacity_of_room hs t _ _ (lockedOrder_roomKept 6 _ _ manualOff_roomKept)⟩
  | takeControl t => exact ⟨_, rfl, handle_withinCapacity_of_room hs t _ _ answerTakeControl_roomKept⟩
  | giveControl t => exact ⟨_, rfl, handle_withinCapacity_of_room hs t _ _ answerGiveControl_roomKept⟩
  | clearLatchInterlock t => exact ⟨_, rfl, handle_withinCapacity_of_room hs t _ _ answerClearInterlock_roomKept⟩
  | clearLatchEvents t => exact ⟨_, rfl, handle_withinCapacity_of_room hs t _ _ answerClearEvents_roomKept⟩
  | restart t => exact ⟨_, rfl, handle_withinCapacity hs t _ _ answerRestart_leavesReplySlot⟩
  | unknownVerb t => exact ⟨_, rfl, handle_withinCapacity_of_reads hs t _ _ fun _ _ => rfl⟩
  | partVerbDiscarded t => exact ⟨_, rfl, discardPartVerb_withinCapacity (setClock_withinCapacity hs t)⟩
  | lineHold t p k o =>
    exact ⟨_, rfl, arrivalEnds_withinCapacity (setClock_withinCapacity hs t) _ p k (handHold_roomKept o)⟩
  | lineSample t p k o =>
    exact ⟨_, rfl, arrivalEnds_withinCapacity (setClock_withinCapacity hs t) _ p k (handSample_roomKept p o)⟩
  | coastingExpiry t k o => exact ⟨_, rfl, (coastingEnds_roomKept (s.setClock t) k o).timed hs⟩
  | lostExpiry t k o => exact ⟨_, rfl, (lostEnds_roomKept (s.setClock t) k o).timed hs⟩
  | windowClose t k o => exact ⟨_, rfl, (windowEnds_roomKept (s.setClock t) k o).timed hs⟩
  | pulseInputChange t i ch b => exact ⟨_, rfl, (inputChanges_roomKept (s.setClock t) i ch b).timed hs⟩
  | changeAccepted t i ch b => exact ⟨_, rfl, (changeHolds_roomKept (s.setClock t) i ch b).timed hs⟩
  | stoppedTimerExpiry t i ch => exact ⟨_, rfl, (channelStops_roomKept (s.setClock t) i ch).timed hs⟩
  | conversionCompletion t code => exact ⟨_, rfl, (convert_roomKept (s.setClock t) code).timed hs⟩
  | guardOpen t i => exact ⟨_, rfl, (guardOpens_roomKept (s.setClock t) i).timed hs⟩
  | guardSafe t i => exact ⟨_, rfl, (modOut_roomKept (s.setClock t) i _).timed hs⟩
  | missingTabExpiry t i => exact ⟨_, rfl, (missingTabEnds_roomKept (s.setClock t) i).timed hs⟩
  | pasterTimerExpiry t i => exact ⟨_, rfl, (pasterEnds_roomKept (s.setClock t) i).timed hs⟩
  | knifeTimerExpiry t i => exact ⟨_, rfl, (knifeEnds_roomKept (s.setClock t) i).timed hs⟩
  | confirmTimerExpiry t i => exact ⟨_, rfl, (confirmEnds_roomKept (s.setClock t) i).timed hs⟩
  | stoppingTimerExpiry t i => exact ⟨_, rfl, (stoppingEnds_roomKept (s.setClock t) i).timed hs⟩
  | pasteEndExpiry t i => exact ⟨_, rfl, (modOut_roomKept (s.setClock t) i _).timed hs⟩
  | knifeEndExpiry t i => exact ⟨_, rfl, (modOut_roomKept (s.setClock t) i _).timed hs⟩
  | brakeDelayExpiry t i => exact ⟨_, rfl, (modOut_roomKept (s.setClock t) i _).timed hs⟩
  | brakeHoldExpiry t i => exact ⟨_, rfl, (modOut_roomKept (s.setClock t) i _).timed hs⟩
  | hornHalfPeriod t i => exact ⟨_, rfl, (modOut_roomKept (s.setClock t) i _).timed hs⟩
  | prewarnPhase t i => exact ⟨_, rfl, (modOut_roomKept (s.setClock t) i _).timed hs⟩
  | lockExpiry t i => exact ⟨_, rfl, (modStand_roomKept (s.setClock t) i _).timed hs⟩
  | requestFrame t p k => exact ⟨_, rfl, requestEnds_withinCapacity (setClock_withinCapacity hs t) p k⟩
  | transmitBegin m => exact ⟨_, rfl, beginsFrame_withinCapacity (setClock_withinCapacity hs m.t) m.rivals⟩
  | lostArbitration t => exact ⟨_, rfl, losesContest_withinCapacity (setClock_withinCapacity hs t)⟩
  | transmitOutcome t e => exact ⟨_, rfl, (frameEnds_roomKept (s.setClock t) e).timed hs⟩
  | busIdle m => exact ⟨_, rfl, becomesIdle_withinCapacity (setClock_withinCapacity hs m.t) m.line⟩
  | stuck m o => exact ⟨_, rfl, entersStuck_withinCapacity (setClock_withinCapacity hs m.t) m.line o⟩
  | startMarkRead t => exact ⟨_, rfl, startsReading_withinCapacity (setClock_withinCapacity hs t)⟩
  | headerCheckEnd t h k => exact ⟨_, rfl, headerEnds_withinCapacity (setClock_withinCapacity hs t) h k⟩
  | receptionAbandoned m => exact ⟨_, rfl, abandonFrame_withinCapacity (setClock_withinCapacity hs m.t) m.line⟩

/-- Every step keeps the capacities; the queue of waiting commands is none of the part's queues. -/
theorem step_withinCapacity {s u : State} (hs : s.WithinCapacity) (h : step s = .next u) : u.WithinCapacity := by
  unfold step at h
  split at h
  · cases h
    exact hs
  · rename_i c rest _
    obtain ⟨v, hv, hk⟩ := exec_withinCapacity (s := { s with pending := rest }) hs c
    rw [hv] at h
    cases h
    exact hk

end State

end Machine

end Sys2Proof
end

section
open Sys2Proof.Machine

/-- Settles O55: an entry joins the transmit queue only in a free slot, a frame takes only the place its header reserved
below a fill of 16, and a reel joins only a queue of fewer than 3. -/
theorem capacityKept : Obligations.CapacityKept := fun _ _ hs h => State.step_withinCapacity hs h
end

section
/-! SUPPORT. The reset state, stand by stand and tracker by tracker (O3, O4). -/

namespace Sys2Proof

namespace Machine

namespace State

@[simp] theorem stand_reset (i : StandNo) : reset.stand i = Stand.start false false false := by
  simp [State.stand, reset]

@[simp] theorem tracker_reset (k : SlotNo) : reset.tracker k = Tracker.start := by
  simp [State.tracker, reset]

/-- The pins of log entry 7: straps 0, guards safe, pulse inputs low. -/
def quietPins : Pins := ⟨0, Vector.replicate 6 false, Vector.replicate 6 false, Vector.replicate 6 false⟩

theorem tracker_poweredOn (s : State) (pins : Pins) (k : SlotNo) : (s.poweredOn pins).tracker k = Tracker.start :=
  tracker_reset k

theorem grades_poweredOn (s : State) (pins : Pins) (g : Fin 32) : (s.poweredOn pins).grades[g] = none := by
  simp [poweredOn, reset]

/-- POWER_ON with the pins of log entry 7 gives the reset state. -/
theorem poweredOn_quietPins : reset.poweredOn quietPins = reset := by
  refine ext_stands (fun i => ?_) (fun k => ?_) rfl rfl rfl rfl rfl rfl rfl rfl rfl
  · rw [stand_poweredOn, stand_reset]
    simp [quietPins]
  · rw [tracker_poweredOn, tracker_reset]

end State

end Machine

end Sys2Proof
end

section
open Sys2Proof Sys2Proof.Machine Sys2Proof.Machine.State

/-- Settles O3: each block of the part by its own definition at power-on, the stands and trackers by their lemmas. -/
theorem powerOnValues : Obligations.PowerOnValues := by
  refine ⟨fun pins s => ?_, congrArg _ poweredOn_quietPins⟩
  refine ⟨s.poweredOn pins, rfl, rfl, rfl, grades_poweredOn s pins, rfl, rfl, rfl, rfl, rfl, tracker_poweredOn s pins, rfl,
    rfl, rfl, rfl, rfl, rfl, rfl, rfl, rfl, rfl, rfl, rfl, fun i => ?_⟩
  rw [stand_poweredOn]
  exact ⟨rfl, rfl, rfl, rfl, rfl, rfl, rfl, rfl, rfl, rfl, rfl, rfl, rfl, rfl, rfl, rfl, rfl, rfl, rfl, rfl⟩

/-- Settles O4: at reset the tables, the log and the queues are empty, every context is in OFF with its outputs off, every
tracker in NONE and no lock is held. -/
theorem resetObeysLaws : Obligations.ResetObeysLaws := by
  have hline : State.reset.LineInRange := by
    unfold LineInRange
    decide
  refine ⟨⟨Nat.zero_le _, Nat.zero_le _, fun i => ?_⟩, fun g r h => ?_, fun i h => ?_, hline, ?_, fun k => ?_, fun i => ?_, ?_,
    ?_, ⟨Nat.zero_le _, nofun⟩, fun i l h => ?_, nofun, nofun⟩
  · rw [stand_reset]
    exact Nat.zero_le _
  · rw [← poweredOn_quietPins, grades_poweredOn] at h
    cases h
  · rw [stand_reset] at h
    cases h
  · exact ⟨Nat.zero_le _, List.nodup_nil, nofun, stationOfStraps_individual 0⟩
  · rw [tracker_reset]
    exact ⟨Nat.zero_le _, Nat.zero_le _, nofun⟩
  · rw [stand_reset]
    exact nofun
  · refine (contextsLawful_iff _).2 fun i => ?_
    rw [stand_reset]
    exact Stand.lawful_of_resting rfl (.inr rfl)
  · rw [← poweredOn_quietPins]
    exact poweredOn_safe _ _
  · rw [stand_reset] at h
    cases h
end

section
/-! SUPPORT. The check register over a run of zeros (O45). -/

namespace Sys2Proof

namespace Machine

theorem crc8_append (bits : List Bool) (b : Bool) : crc8 (bits ++ [b]) = crcStep (crc8 bits) b := by
  rw [crc8, crc8, List.foldl_append, List.foldl_cons, List.foldl_nil]

/-- A register of 0 stays 0 while the bits are 0 (R142). -/
theorem crc8_zeros (n : Nat) : crc8 (List.replicate n false) = 0 := by
  induction n with
  | zero => rfl
  | succ n ih =>
    rw [List.replicate_succ', crc8_append, ih]
    rfl

theorem classBit_eq (c : FrameClass) : classBit c = (c == .normal) := by cases c <;> rfl

end Machine

end Sys2Proof
end

section
open Sys2Proof Sys2Proof.Machine

/-- Settles O45: the register takes the bits one by one from its first step; the two examples are run. -/
theorem checksAreFormed : Obligations.ChecksAreFormed := by
  refine ⟨rfl, fun bits b => ?_, fun _ => rfl, fun h => ?_, fun _ => rfl, crc8_zeros, by decide, by decide⟩
  · rw [crc8_append, crcStep]
    simp only [beq_iff_eq]
  · rw [headerCheck, classBit_eq]
    simp only [List.flatMap_cons, List.flatMap_nil, List.append_nil, List.append_assoc]
end

section
/-! SUPPORT. The cells of a frame and its bits in order, and how long a run of equal levels can be within it (O46). -/

namespace Sys2Proof

namespace Machine

/-! ### The bits of a frame in order (R141) -/

theorem length_byteBits (b : Byte) : (byteBits b).length = 8 := rfl

theorem byteBits_eq_map (b : Byte) : byteBits b = (List.range 8).map fun k => b.getLsbD (7 - k) := rfl

theorem cells_cons (prev : Bool) (b : Byte) (more : List Byte) :
    cells prev (b :: more) = (!prev) :: byteBits b ++ cells (b.getLsbD 0) more := rfl

theorem length_cells (prev : Bool) (l : List Byte) : (cells prev l).length = 9 * l.length := by
  induction l generalizing prev with
  | nil => rfl
  | cons b more ih =>
    rw [cells_cons, List.length_append, List.length_cons, length_byteBits, ih, List.length_cons]
    omega

theorem length_headerBits (h : Header) (check : Byte) : (headerBits h check).length = 45 := by
  rw [headerBits, List.length_append, length_cells]
  rfl

theorem individual_eq_false {f : Frame} (h : 240 ≤ f.target.toNat) : f.individual = false :=
  decide_eq_false (Nat.not_lt.2 h)

theorem individual_eq_true {f : Frame} (h : f.target.toNat < 240) : f.individual = true := decide_eq_true h

/-- The payload cells with the payload check cell, after a header slot that reads `slot`. -/
def Frame.payloadCells (f : Frame) (slot : Bool) : List Bool := cells slot (f.payload ++ [crcBytes f.payload])

/-- The header of a frame with its check, as bits. -/
def Frame.headerLine (f : Frame) : List Bool := headerBits f.header (headerCheck f.header)

/-- A frame whose header slot reads dominant, or to a group target, goes on to the payload slot. -/
theorem Frame.bits_whole {f : Frame} {slot : Bool} (h : slot = false ∨ 240 ≤ f.target.toNat) (a b : Bool) :
    f.bits slot a b = f.headerLine ++ [a] ++ f.payloadCells slot ++ [b] := by
  have hgo : (f.individual && slot) = false := by
    rcases h with rfl | h
    · exact Bool.and_false _
    · rw [individual_eq_false h, Bool.false_and]
  rw [Frame.bits, hgo]
  simp [Frame.headerLine, Frame.payloadCells]

/-- A frame to an individual target whose header slot reads recessive ends there. -/
theorem Frame.bits_short {f : Frame} (h : f.target.toNat < 240) (a b : Bool) :
    f.bits true a b = f.headerLine ++ [a] := by
  rw [Frame.bits, individual_eq_true h]
  rfl

theorem Frame.length_headerLine (f : Frame) : f.headerLine.length = 45 := length_headerBits _ _

theorem Frame.length_payloadCells (f : Frame) (slot : Bool) :
    (f.payloadCells slot).length = 9 * f.payload.length + 9 := by
  rw [Frame.payloadCells, length_cells, List.length_append, List.length_singleton]
  omega

/-! ### The longest runs (R140) -/

/-- Neither count exceeds `k`. -/
def LineRuns.Within (k : Nat) (r : LineRuns) : Prop := r.dominant ≤ k ∧ r.recessive ≤ k

/-- The last bit time read had this level: the count of the other level stands at 0. -/
def LineRuns.EndsAt (prev : Bool) (r : LineRuns) : Prop := if prev then r.dominant = 0 else r.recessive = 0

/-- Neither count exceeds 10 at any of these bit times. -/
def LineRuns.ShortThrough (r : LineRuns) (l : List Bool) : Prop := ∀ n, (r.read (l.take n)).Within 10

theorem LineRuns.Within.mono {r : LineRuns} {j k : Nat} (h : r.Within j) (hjk : j ≤ k) : r.Within k :=
  ⟨Nat.le_trans h.1 hjk, Nat.le_trans h.2 hjk⟩

/-- A bit time raises a count by at most one. -/
theorem LineRuns.Within.bit {r : LineRuns} {k : Nat} (h : r.Within k) (b : Bool) : (r.bit b).Within (k + 1) := by
  obtain ⟨hd, hr⟩ := h
  cases b with
  | true => exact ⟨Nat.zero_le _, Nat.succ_le_succ hr⟩
  | false => exact ⟨Nat.succ_le_succ hd, Nat.zero_le _⟩

theorem LineRuns.Within.read {r : LineRuns} {k : Nat} (h : r.Within k) (l : List Bool) :
    (r.read l).Within (k + l.length) := by
  induction l generalizing r k with
  | nil => exact h
  | cons b l ih =>
    rw [LineRuns.read_cons, List.length_cons, show k + (l.length + 1) = k + 1 + l.length by omega]
    exact ih (h.bit b)

theorem LineRuns.endsAt_bit (r : LineRuns) (b : Bool) : (r.bit b).EndsAt b := by cases b <;> rfl

/-- A change bit, the opposite of the level before it, starts both counts anew. -/
theorem LineRuns.EndsAt.change {r : LineRuns} {prev : Bool} (h : r.EndsAt prev) : (r.bit (!prev)).Within 1 := by
  cases prev with
  | true => exact ⟨Nat.succ_le_succ (Nat.le_of_eq h), Nat.zero_le _⟩
  | false => exact ⟨Nat.zero_le _, Nat.succ_le_succ (Nat.le_of_eq h)⟩

theorem LineRuns.endsAt_byteBits (r : LineRuns) (b : Byte) : (r.read (byteBits b)).EndsAt (b.getLsbD 0) :=
  endsAt_bit _ _

/-- Bits too few to bring a count past 10. -/
theorem LineRuns.Within.shortThrough {r : LineRuns} {k : Nat} (h : r.Within k) {l : List Bool} (hl : k + l.length ≤ 10) :
    r.ShortThrough l := fun n =>
  (h.read (l.take n)).mono (by
    have := List.length_take_le' n l
    omega)

theorem LineRuns.ShortThrough.append {r : LineRuns} {k l : List Bool} (hk : r.ShortThrough k)
    (hl : (r.read k).ShortThrough l) : r.ShortThrough (k ++ l) := by
  intro n
  rw [List.take_append]
  by_cases hn : n ≤ k.length
  · rw [Nat.sub_eq_zero_of_le hn, List.take_zero, List.append_nil]
    exact hk n
  · rw [List.take_of_length_le (by omega), LineRuns.read_append]
    exact hl _

theorem LineRuns.ShortThrough.cons {r : LineRuns} {b : Bool} {l : List Bool} (hr : r.Within 10)
    (hl : (r.bit b).ShortThrough l) : r.ShortThrough (b :: l)
  | 0 => hr
  | n + 1 => hl n

/-- A cell after a bit time of level `prev`: its change bit and its 8 bits make runs of 9 at most. -/
theorem LineRuns.cell_short {r : LineRuns} {prev : Bool} (h : r.EndsAt prev) (hr : r.Within 10) (b : Byte) :
    r.ShortThrough ((!prev) :: byteBits b) ∧ (r.read ((!prev) :: byteBits b)).Within 9 ∧
      (r.read ((!prev) :: byteBits b)).EndsAt (b.getLsbD 0) :=
  ⟨.cons hr (h.change.shortThrough (Nat.le_succ 9)), h.change.read (byteBits b), endsAt_byteBits _ b⟩

/-- The cells of these bytes after a bit time of level `prev` bring no count past 10, and leave none past 9. -/
theorem LineRuns.cells_short {r : LineRuns} {prev : Bool} (h : r.EndsAt prev) (hr : r.Within 10) (b : Byte)
    (more : List Byte) : r.ShortThrough (cells prev (b :: more)) ∧ (r.read (cells prev (b :: more))).Within 9 := by
  obtain ⟨hshort, hnine, hends⟩ := cell_short h hr b
  induction more generalizing r prev b with
  | nil =>
    rw [cells_cons, cells, List.append_nil]
    exact ⟨hshort, hnine⟩
  | cons a more ih =>
    have hten := hnine.mono (Nat.le_succ 9)
    obtain ⟨hshort', hnine', hends'⟩ := cell_short hends hten a
    obtain ⟨hmore, hlast⟩ := ih hends hten a hshort' hnine' hends'
    rw [cells_cons]
    exact ⟨hshort.append hmore, by rw [LineRuns.read_append]; exact hlast⟩

/-- An acknowledge slot after a cell. -/
theorem LineRuns.ShortThrough.slot {r : LineRuns} {l : List Bool} (h : r.ShortThrough l) (hl : (r.read l).Within 9)
    (slot : Bool) : r.ShortThrough (l ++ [slot]) ∧ (r.read (l ++ [slot])).Within 10 ∧ (r.read (l ++ [slot])).EndsAt slot := by
  refine ⟨h.append (hl.shortThrough (Nat.le_refl _)), ?_⟩
  rw [LineRuns.read_append]
  exact ⟨hl.bit slot, LineRuns.endsAt_bit _ slot⟩

theorem LineRuns.within_of_shortThrough {r : LineRuns} {l : List Bool} (h : r.ShortThrough l) : (r.read l).Within 10 := by
  have := h l.length
  rwa [List.take_length] at this

/-- The header after the start mark: the class bit and the sender make a run of 10 at most with it, and the four cells
follow. -/
theorem LineRuns.headerBits_short (h : Header) (check : Byte) :
    LineRuns.atStartMark.ShortThrough (headerBits h check) ∧ (LineRuns.atStartMark.read (headerBits h check)).Within 9 := by
  have hcontest : LineRuns.atStartMark.ShortThrough (contestBits h.cls h.sender) :=
    Within.shortThrough (k := 1) ⟨Nat.le_refl _, Nat.zero_le _⟩ (Nat.le_refl _)
  have hends : (LineRuns.atStartMark.read (contestBits h.cls h.sender)).EndsAt (h.sender.getLsbD 0) := endsAt_byteBits _ _
  obtain ⟨hshort, hnine⟩ := cells_short hends (within_of_shortThrough hcontest) h.target [h.verb, h.length, check]
  rw [headerBits, LineRuns.read_append]
  exact ⟨hcontest.append hshort, hnine⟩

theorem Frame.payloadCells_short (f : Frame) {r : LineRuns} {slot : Bool} (h : r.EndsAt slot) (hr : r.Within 10) :
    r.ShortThrough (f.payloadCells slot) ∧ (r.read (f.payloadCells slot)).Within 9 := by
  unfold Frame.payloadCells
  cases f.payload with
  | nil => exact LineRuns.cells_short h hr _ _
  | cons b more => exact LineRuns.cells_short h hr b _

/-- No run of a frame on the line is longer than 10 bit times, whatever its slots read (R140). -/
theorem Frame.readBits_short (f : Frame) (h p : Bool) : LineRuns.atStartMark.ShortThrough (f.readBits h p) := by
  obtain ⟨hheader, hnine⟩ := LineRuns.headerBits_short f.header (headerCheck f.header)
  obtain ⟨hslot, hten, hends⟩ := hheader.slot hnine (!h)
  obtain ⟨hcells, hlast⟩ := f.payloadCells_short hends hten
  have hwhole : LineRuns.atStartMark.ShortThrough (f.headerLine ++ [!h] ++ f.payloadCells (!h)) := hslot.append hcells
  rw [Frame.readBits]
  by_cases hgo : (!h) = false ∨ 240 ≤ f.target.toNat
  · rw [Frame.bits_whole hgo]
    refine (hwhole.slot ?_ (!p)).1
    rw [LineRuns.read_append]
    exact hlast
  · obtain ⟨hslot1, htarget⟩ := not_or.1 hgo
    rw [Bool.not_eq_false] at hslot1
    rw [hslot1] at hslot ⊢
    rw [Frame.bits_short (Nat.not_le.1 htarget)]
    exact hslot

end Machine

end Sys2Proof
end

section
open Sys2Proof Sys2Proof.Machine

/-- Settles O46: a frame is its header, its slots and its cells in order; a change bit ends every run within a cell, so the
longest runs are the start mark with the class and the sender, and a cell with the slot after it. -/
theorem frameOnTheLine : Obligations.FrameOnTheLine := by
  refine ⟨fun _ => rfl, fun _ _ _ => rfl, fun f _ => ?_⟩
  intro length header rest
  have hheader : f.headerLine = header := by
    simp only [header, length, Frame.headerLine, headerBits, contestBits, classBit_eq]
    rfl
  have hlength : header.length = 45 := hheader ▸ f.length_headerLine
  have hrest (slot : Bool) : f.payloadCells slot = rest slot := rfl
  refine ⟨fun slot hgo => ?_, fun hone => ?_, fun h p hgo => ?_, fun p hone => ?_, fun h p n _ => ?_⟩
  · have hbits : f.lineBits slot = [false] ++ header ++ [true] ++ rest slot ++ [true] := by
      rw [Frame.lineBits, Frame.bits_whole hgo, hheader]
      rfl
    refine ⟨hbits, ?_⟩
    simp only [hbits, List.length_append, List.length_singleton, hlength, ← hrest, Frame.length_payloadCells]
    omega
  · have hbits : f.lineBits true = [false] ++ header ++ [true] := by
      rw [Frame.lineBits, Frame.bits_short hone, hheader]
      rfl
    refine ⟨hbits, ?_⟩
    simp only [hbits, List.length_append, List.length_singleton, hlength]
  · rw [Frame.readBits, Frame.bits_whole (hgo.imp (congrArg Bool.not) id), hheader]
    rfl
  · rw [Frame.readBits, Bool.not_false, Frame.bits_short hone, hheader]
  · exact f.readBits_short h p n
end

section
/-! SUPPORT. What the port makes of a header and of a request frame's payload (O47). -/

namespace Sys2Proof

namespace Machine

theorem arrivalVerb_iff (v : Byte) : arrivalVerb v = true ↔ v = 0x10 ∨ v = 0x11 := by
  simp [arrivalVerb, verbLineSample, verbLineHold]

namespace State

/-! ### Headers (R150 to R153) -/

/-- The conditions of R150 on a header whose check is good. -/
theorem headerAccepted_iff (s : State) (h : Header) : s.headerAccepted h = true ↔
    h.length.toNat ≤ 40 ∧ 1 ≤ h.sender.toNat ∧ h.sender.toNat ≤ 239 ∧ h.sender ≠ s.port.station ∧
      (h.target = s.port.station ∨ h.target ∈ s.port.groups ∨ h.target = 255) ∧
      (h.verb = 0x10 ∨ h.verb = 0x11 → h.sender = s.line.lineMaster ∧ s.line.lineMaster ≠ 0) := by
  have harrival : (!(arrivalVerb h.verb) || s.fromLineMaster h.sender) = true ↔
      (h.verb = 0x10 ∨ h.verb = 0x11 → h.sender = s.line.lineMaster ∧ s.line.lineMaster ≠ 0) := by
    rw [← arrivalVerb_iff]
    cases arrivalVerb h.verb <;> simp [fromLineMaster]
  rw [headerAccepted, Bool.and_eq_true, harrival]
  simp [forPart, individualStation, and_assoc, or_assoc]

/-- The acknowledge decision while no reservation is held (R151). -/
theorem admits_iff {s : State} (hr : s.reserved = false) (c : FrameClass) :
    s.admits c = true ↔ s.port.rx.length < 16 ∧ (c = .urgent ∨ s.port.rx.length < 12) := by
  simp [admits, rxFill, hr, Config.rxCapacity, Config.rxCritical]

theorem followHeader_arrival (s : State) {h : Header} (ha : arrivalVerb h.verb = true) :
    s.followHeader h = (.onArrival h, toOneStation h) := if_pos ha

theorem followHeader_admitted {s : State} {h : Header} (ha : ¬ arrivalVerb h.verb = true) (hy : s.admits h.cls = true) :
    s.followHeader h = (.request h true, toOneStation h) := by rw [followHeader, if_neg ha, if_pos hy]

/-- A request frame that is not admitted: to the part alone it is ignored, to a group it is read without a place. -/
theorem followHeader_refused {s : State} {h : Header} (ha : ¬ arrivalVerb h.verb = true) (hn : ¬ s.admits h.cls = true) :
    s.followHeader h = if toOneStation h then (.none, false) else (.request h false, false) := by
  rw [followHeader, if_neg ha, if_neg hn]

/-- The state after the header check cell, the port reading on as `r` and driving the header slot as `a` says. -/
def headerRead (s : State) (t : Time) (h : Header) (check : Byte) (r : Reading) (a : Bool) : State :=
  { s with
    clock := t
    port := { s.port with
      reading := r, headerAck := a, payloadAck := false, runs := LineRuns.read ⟨1, 0⟩ (headerBits h check) } }

/-- At the end of the header check cell of the frame being read the port judges the header, and reads on by its judgement. -/
theorem exec_headerCheckEnd {s : State} (t : Time) (h : Header) (check : Byte) (hr : s.port.reading = .header) :
    exec (.headerCheckEnd t h check) s =
      let r := if check = headerCheck h ∧ s.headerAccepted h then s.followHeader h else (.none, false)
      .next (s.headerRead t h check r.1 r.2) := by
  have hends : exec (.headerCheckEnd t h check) s = .next ((s.setClock t).headerEnds h check) := rfl
  rw [hends, headerEnds, port_setClock, if_pos hr]
  rfl

/-! ### The payload of a request frame (R152) -/

theorem exec_requestFrame (s : State) (t : Time) (p : List Byte) (check : Byte) :
    exec (.requestFrame t p check) s = .next ((s.setClock t).requestEnds p check) := rfl

theorem exec_requestFrame_taken {s : State} {t : Time} {h : Header} {p : List Byte}
    (hr : s.port.reading = .request h true) (hp : p.length = h.length.toNat) :
    exec (.requestFrame t p (crcBytes p)) s = .next { s with
      clock := t
      port := { s.port with
        reading := .none
        payloadAck := toOneStation h
        runs := s.port.runs.read ((!s.port.headerAck) :: cells (!s.port.headerAck) (p ++ [crcBytes p]))
        rx := s.port.rx ++ [frameOf h p] } } := by
  rw [exec_requestFrame, requestEnds, port_setClock, hr]
  simp only [hp, if_true, beq_self_eq_true, Bool.and_self]
  rfl

theorem exec_requestFrame_dropped {s : State} {t : Time} {h : Header} {held : Bool} {p : List Byte} {check : Byte}
    (hr : s.port.reading = .request h held) (hp : p.length = h.length.toNat) (hn : held = false ∨ check ≠ crcBytes p) :
    exec (.requestFrame t p check) s = .next { s with
      clock := t
      port := { s.port with
        reading := .none
        payloadAck := false
        runs := s.port.runs.read ((!s.port.headerAck) :: cells (!s.port.headerAck) (p ++ [check])) } } := by
  have hbad : (held && check == crcBytes p) = false := by
    rcases hn with rfl | hn
    · rfl
    · rw [beq_eq_false_iff_ne.2 hn, Bool.and_false]
  rw [exec_requestFrame, requestEnds, port_setClock, hr]
  simp only [hp, if_true, hbad, Bool.false_eq_true, if_false]
  rfl

end State

end Machine

end Sys2Proof
end

section
open Sys2Proof Sys2Proof.Machine Sys2Proof.Machine.State

/-- Settles O47: the conditions of R150 and the acknowledge decision of R151, each read off the port's own judgement, choose
what it reads on; a reservation and a good check make the frame the youngest of the receive queue. -/
theorem framesAreAdmitted : Obligations.FramesAreAdmitted := by
  refine ⟨fun s t h check hr => ?_, fun s t h held p check hr hp => ?_⟩
  · intro one mine arrival ok yes x
    have hok : ok ↔ check = headerCheck h ∧ s.headerAccepted h = true := by rw [headerAccepted_iff]
    have harrival : arrival ↔ arrivalVerb h.verb = true := (arrivalVerb_iff h.verb).symm
    have hyes : yes ↔ s.admits h.cls = true := (admits_iff (by rw [State.reserved, hr]) h.cls).symm
    have hfollow (hx : ok) {r : Reading} {a : Bool} (he : s.followHeader h = (r, a)) :
        exec (.headerCheckEnd t h check) s = .next (x r a) := by
      rw [exec_headerCheckEnd t h check hr, if_pos (hok.1 hx), he]
      rfl
    have hignore (hx : ¬ ok) : exec (.headerCheckEnd t h check) s = .next (x .none false) := by
      rw [exec_headerCheckEnd t h check hr, if_neg (mt hok.2 hx)]
      rfl
    have hrefused (ha : ¬ arrival) (hn : ¬ yes) := followHeader_refused (mt harrival.2 ha) (mt hyes.2 hn)
    refine ⟨hignore, fun hx ha => hfollow hx (followHeader_arrival s (harrival.1 ha)),
      fun hx ha hy => hfollow hx (followHeader_admitted (mt harrival.2 ha) (hyes.1 hy)),
      fun hx ha hn hone => hfollow hx ?_, fun hx ha hn hgroup => hfollow hx ?_⟩
    · rw [hrefused ha hn, show toOneStation h = true from hone]
      rfl
    · rw [hrefused ha hn, show toOneStation h = false from hgroup]
      rfl
  · refine ⟨fun hheld hgood => ?_, fun hn => exec_requestFrame_dropped hr hp hn⟩
    subst hheld hgood
    exact exec_requestFrame_taken hr hp
end

section
/-! SUPPORT. The entry that the arbiter begins, and the contest of its frame with the stations that begin with it (O48). -/

namespace Sys2Proof

namespace Machine

/-! ### The choice of the arbiter (R146) -/

/-- The entry is the oldest urgent one not begun; or it is normal, every entry older than it is begun, and no younger one not
begun is urgent. -/
def ArbiterChooses (pre post : List TxEntry) (e : TxEntry) : Prop :=
  e.cls = .urgent ∧ (∀ a ∈ pre, a.begun = false → a.cls = .normal) ∨
    e.cls = .normal ∧ (∀ a ∈ pre, a.begun = true) ∧ ∀ a ∈ post, a.begun = false → a.cls = .normal

theorem find?_split {α : Type} {p : α → Bool} {pre post : List α} {e : α} (hpre : ∀ a ∈ pre, p a = false)
    (he : p e = true) : (pre ++ e :: post).find? p = some e := by
  rw [List.find?_append, List.find?_eq_none.2 fun a ha => by rw [hpre a ha]; exact Bool.false_ne_true,
    List.find?_cons_of_pos he]
  rfl

theorem not_urgent_of_begun {a : TxEntry} (h : a.begun = true) : (!a.begun && a.cls == .urgent) = false := by simp [h]

theorem not_urgent_of_normal {a : TxEntry} (h : a.begun = false → a.cls = .normal) :
    (!a.begun && a.cls == .urgent) = false := by
  cases hb : a.begun with
  | true => rfl
  | false => simp [h hb]

theorem chosenEntry_eq {pre post : List TxEntry} {e : TxEntry} (hb : e.begun = false) (h : ArbiterChooses pre post e) :
    chosenEntry (pre ++ e :: post) = some e := by
  unfold chosenEntry
  rcases h with ⟨hc, hpre⟩ | ⟨hc, hpre, hpost⟩
  · rw [find?_split (fun a ha => not_urgent_of_normal (hpre a ha)) (by simp [hb, hc])]
    rfl
  · have hurgent : (pre ++ e :: post).find? (fun e => !e.begun && e.cls == .urgent) = none := by
      refine List.find?_eq_none.2 fun a ha => ?_
      rw [Bool.not_eq_true]
      rcases List.mem_append.1 ha with ha | ha
      · exact not_urgent_of_begun (hpre a ha)
      · rcases List.mem_cons.1 ha with rfl | ha
        · exact not_urgent_of_normal fun _ => hc
        · exact not_urgent_of_normal (hpost a ha)
    rw [hurgent, find?_split (fun a ha => by simp [hpre a ha]) (by simp [hb])]
    rfl

/-- The chosen entry is equal to none before it. -/
theorem ArbiterChooses.ne {pre post : List TxEntry} {e : TxEntry} (h : ArbiterChooses pre post e) (hb : e.begun = false) :
    ∀ a ∈ pre, a ≠ e := by
  rintro a ha rfl
  rcases h with ⟨hc, hpre⟩ | ⟨-, hpre, -⟩
  · rw [hpre a ha hb] at hc
    cases hc
  · rw [hpre a ha] at hb
    cases hb

/-- The first entry equal to `e` is begun in its place. -/
theorem beginEntry_eq {pre post : List TxEntry} {e : TxEntry} (h : ∀ a ∈ pre, a ≠ e) :
    beginEntry e (pre ++ e :: post) = pre ++ { e with begun := true } :: post := by
  induction pre with
  | nil => simp [beginEntry]
  | cons a pre ih =>
    rw [List.forall_mem_cons] at h
    rw [List.cons_append, beginEntry, if_neg h.1, ih h.2, List.cons_append]

/-! ### The contest (R145) -/

theorem contestBits_eq (c : FrameClass) (sender : Byte) : contestBits c sender = (c == .normal) :: byteBits sender := by
  rw [contestBits, classBit_eq]

section

variable (f : Frame) (rivals : List Contestant)

theorem length_rivalBits : ∀ r ∈ rivals.map fun x => contestBits x.cls x.sender,
    r.length = (contestBits f.cls f.sender).length := by
  intro r hr
  obtain ⟨x, -, rfl⟩ := List.mem_map.1 hr
  rfl

/-- The part wins the contest when no rival has a lower class followed by sender. -/
theorem Frame.contend_won_iff :
    (f.contend rivals).won = true ↔ ∀ r ∈ rivals, rank f.cls f.sender ≤ rank r.cls r.sender := by
  obtain ⟨hwon, -, -⟩ := contest_spec (contestBits f.cls f.sender) _ (length_rivalBits f rivals)
  rw [Frame.contend]
  simp only [hwon, List.forall_mem_map, bitsValue_contestBits]

/-- The winner reads its own bits. -/
theorem Frame.contest_of_won (h : (f.contend rivals).won = true) :
    (f.contend rivals).contest = contestBits f.cls f.sender :=
  (contest_spec (contestBits f.cls f.sender) _ (length_rivalBits f rivals)).2.1 h

/-- A loser reads the first bits of the lowest rival. -/
theorem Frame.contest_of_lost (h : (f.contend rivals).won = false) :
    ∃ r ∈ rivals, (∀ a ∈ rivals, rank r.cls r.sender ≤ rank a.cls a.sender) ∧
      (f.contend rivals).contest <+: contestBits r.cls r.sender := by
  obtain ⟨-, -, hlost⟩ := contest_spec (contestBits f.cls f.sender) _ (length_rivalBits f rivals)
  obtain ⟨bits, hbits, hlowest, hprefix⟩ := hlost h
  obtain ⟨r, hr, rfl⟩ := List.mem_map.1 hbits
  simp only [List.forall_mem_map, bitsValue_contestBits] at hlowest
  exact ⟨r, hr, hlowest, hprefix⟩

end

namespace State

/-- The part begins the entry that the arbiter chooses (R145, R146). -/
theorem exec_transmitBegin {s : State} (t : Time) (rivals : List Contestant) {pre post : List TxEntry} {e : TxEntry}
    (hidle : s.port.bus = .idle) (hquiet : s.port.sending = none) (htx : s.port.tx = pre ++ e :: post)
    (hb : e.begun = false) (hc : ArbiterChooses pre post e) :
    exec (.transmitBegin ⟨t, rivals⟩) s = .next { s with
      clock := t
      port := { s.port with
        bus := .busy
        runs := ⟨s.port.runs.dominant + 1, 0⟩
        reading := .none
        sending := some ((e.frame s.port.station).contend rivals)
        tx := pre ++ { e with begun := true } :: post } } := by
  have hbegins : exec (.transmitBegin ⟨t, rivals⟩) s = .next ((s.setClock t).beginsFrame rivals) := rfl
  rw [hbegins, beginsFrame, port_setClock, if_pos ⟨hidle, hquiet⟩, htx, chosenEntry_eq hb hc]
  dsimp only
  rw [modPort, port_setClock, htx, beginEntry_eq (hc.ne hb)]
  rfl

end State

end Machine

end Sys2Proof
end

section
open Sys2Proof Sys2Proof.Machine Sys2Proof.Machine.State

/-- Settles O48: the arbiter's search finds the entry of R146, and the contest of its frame is that of the bits, whose values
are ordered as class followed by sender. -/
theorem transmitBeginChooses : Obligations.TransmitBeginChooses := by
  intro s t rivals pre post e hidle hquiet htx hb hc rank' bits mine
  let f := e.frame s.port.station
  have hbits : ∀ c station, contestBits c station = bits c station := contestBits_eq
  refine ⟨(f.contend rivals).contest, (f.contend rivals).won, exec_transmitBegin t rivals hidle hquiet htx hb hc,
    f.contend_won_iff rivals, fun hwon => ?_, fun hlost => ?_⟩
  · rw [f.contest_of_won rivals hwon, hbits]
    rfl
  · obtain ⟨r, hr, hlowest, hprefix⟩ := f.contest_of_lost rivals hlost
    rw [hbits] at hprefix
    exact ⟨r, hr, hlowest, hprefix, hbits e.cls s.port.station ▸ contest_lost (contestBits f.cls f.sender) _ hlost⟩
end

section
/-! SUPPORT. What the runs of levels on the line do to the bus state and to the frame being read (O51). -/

namespace Sys2Proof

namespace Machine

theorem LineRuns.read_snoc (r : LineRuns) (l : List Bool) (b : Bool) : r.read (l ++ [b]) = (r.read l).bit b := by
  rw [LineRuns.read_append]
  rfl

theorem LineRuns.repeated_iff (r : LineRuns) : r.repeated = true ↔ 2 ≤ r.dominant ∨ 2 ≤ r.recessive := by
  rw [LineRuns.repeated, Bool.or_eq_true, decide_eq_true_eq, decide_eq_true_eq]

namespace State

variable {s : State} (t : Time) (line : List Bool)

/-! ### The bus state (R143) -/

/-- The 11th recessive bit time in a row takes a bus that is not in IDLE there, while the part sends no frame. -/
theorem exec_busIdle (hq : s.port.sending = none) (hb : s.port.bus ≠ .idle) :
    exec (.busIdle ⟨t, line⟩) s = .next (if (s.port.runs.read line).recessive = 11 then
      { s with clock := t, port := { s.port with bus := .idle, runs := s.port.runs.read line, reading := .none } }
      else { s with clock := t }) := by
  have hidle : exec (.busIdle ⟨t, line⟩) s = .next ((s.setClock t).becomesIdle line) := rfl
  rw [hidle, becomesIdle, port_setClock, hq]
  dsimp only
  by_cases hr : (s.port.runs.read line).recessive = 11
  · rw [if_pos hr, if_neg (by simp [hb, hr])]
    rfl
  · rw [if_neg hr, if_pos (.inr (.inr hr))]
    rfl

theorem exec_busIdle_in_idle (hb : s.port.bus = .idle) :
    exec (.busIdle ⟨t, line⟩) s = .next { s with clock := t } := by
  have hidle : exec (.busIdle ⟨t, line⟩) s = .next ((s.setClock t).becomesIdle line) := rfl
  rw [hidle, becomesIdle, port_setClock]
  rw [if_pos (.inl hb)]
  rfl

/-- A start mark is read in IDLE alone (R143). -/
theorem exec_startMarkRead : exec (.startMarkRead t) s = .next (if s.port.bus = .idle then { s with
    clock := t, port := { s.port with bus := .busy, runs := ⟨s.port.runs.dominant + 1, 0⟩, reading := .header } }
    else { s with clock := t }) := by
  have hstarts : exec (.startMarkRead t) s = .next (s.setClock t).startsReading := rfl
  rw [hstarts, startsReading, port_setClock]
  rfl

/-- The frame being read is abandoned where the last two bit times had one level (R150). -/
theorem exec_receptionAbandoned (hr : s.port.reading ≠ .none) :
    exec (.receptionAbandoned ⟨t, line⟩) s =
      .next (if 2 ≤ (s.port.runs.read line).dominant ∨ 2 ≤ (s.port.runs.read line).recessive then
        { s with clock := t, port := { s.port with
          reading := .none, payloadAck := false, runs := s.port.runs.read line } }
        else { s with clock := t }) := by
  have habandon : exec (.receptionAbandoned ⟨t, line⟩) s = .next ((s.setClock t).abandonFrame line) := rfl
  rw [habandon, abandonFrame, port_setClock]
  dsimp only
  by_cases hrep : (s.port.runs.read line).repeated = true
  · rw [if_neg (by simp [hr, hrep]), if_pos ((LineRuns.repeated_iff _).1 hrep)]
    rfl
  · rw [if_pos (.inr (by simpa using hrep)), if_neg (mt (LineRuns.repeated_iff _).2 hrep)]
    rfl

/-! ### STUCK (R144) -/

theorem exec_stuck_quiet (o : List StandNo) (h : s.port.bus = .stuck ∨ (s.port.runs.read line).dominant ≠ 251) :
    exec (.stuck ⟨t, line⟩ o) s = .next { s with clock := t } := by
  have hstuck : exec (.stuck ⟨t, line⟩ o) s = .next ((s.setClock t).entersStuck line o) := rfl
  rw [hstuck, entersStuck, port_setClock]
  rw [if_pos (h.imp_right .inr)]
  rfl

/-- The part at the entry to STUCK, before the splices are aborted. -/
def stuckBus (s : State) (t : Time) (line : List Bool) : State :=
  { s with clock := t, port := { s.port with
    bus := .stuck, runs := s.port.runs.read line, reading := .none, payloadAck := false } }

theorem exec_stuck (o : List StandNo) (hq : s.port.sending = none) (hb : s.port.bus ≠ .stuck)
    (hd : (s.port.runs.read line).dominant = 251) :
    exec (.stuck ⟨t, line⟩ o) s =
      .next (forStands o (fun i s => s.abortBeforeFire i .driveFault) (s.stuckBus t line)) := by
  have hstuck : exec (.stuck ⟨t, line⟩ o) s = .next ((s.setClock t).entersStuck line o) := rfl
  rw [hstuck, entersStuck, port_setClock]
  rw [if_neg (by simp [hq, hb, hd])]
  rfl

/-- What an abort before fire at local time `t` makes of its stand `x`, as `y`; a stand with no splice before fire stays. -/
structure AbortedStand (t : Time) (c : AbortCause) (x y : Stand) : Prop where
  kept : x.ctx.state.beforeFire = false → y = x
  aborted : x.ctx.state.beforeFire = true → y.ctx.state = .stopping ∧ y.ctx.cause = some c ∧ y.out.pasterAt = none ∧
    y.loop.activity = .stopped ∧ y.ctx.stoppingAt = some (t + 15000000)

theorem abortBeforeFire_stand (s : State) (i : StandNo) (c : AbortCause) :
    AbortedStand s.clock c (s.stand i) ((s.abortBeforeFire i c).stand i) := by
  unfold abortBeforeFire
  split
  · rename_i hb
    obtain ⟨horn, -, hs⟩ := stand_abort s i c
    rw [hs]
    exact ⟨fun hn => absurd (hb.symm.trans hn) nofun, fun _ => ⟨rfl, rfl, rfl, rfl, rfl⟩⟩
  · rename_i hb
    exact ⟨fun _ => rfl, fun hy => absurd hy hb⟩

/-- The splices of all stands before fire are aborted, each as by itself, in whatever order. -/
theorem forStands_abortBeforeFire (s : State) (o : List StandNo) (c : AbortCause) :
    Swept s (forStands o (fun i s => s.abortBeforeFire i c) s) ∧ ∀ i,
      AbortedStand s.clock c (s.stand i) ((forStands o (fun i s => s.abortBeforeFire i c) s).stand i) :=
  forStands_own o _ (fun i x => abortBeforeFire_own x i c) (fun _ => AbortedStand s.clock c) s fun i x hx => by
    rw [← hx.clock]
    exact abortBeforeFire_stand x i c

end State

end Machine

end Sys2Proof
end

section
open Sys2Proof Sys2Proof.Machine Sys2Proof.Machine.State

/-- Settles O51: each event of the line compares its run with its threshold, and the entry to STUCK sweeps the stands with an
abort that touches each stand by itself. -/
theorem busStateChanges : Obligations.BusStateChanges := by
  refine ⟨fun r l => ⟨rfl, LineRuns.read_snoc r l false, LineRuns.read_snoc r l true⟩, fun s t line o hq => ?_⟩
  intro runs quiet
  refine ⟨exec_busIdle t line hq, exec_busIdle_in_idle t line, fun hb => ?_, fun hb => ?_, exec_receptionAbandoned t line,
    exec_stuck_quiet t line o, fun hb hd => ⟨_, exec_stuck t line o hq hb hd, ?_⟩⟩
  · rw [exec_startMarkRead, if_pos hb]
  · rw [exec_startMarkRead, if_neg hb]
  · obtain ⟨hswept, hstands⟩ := forStands_abortBeforeFire (s.stuckBus t line) o .driveFault
    have hport := hswept.port
    refine ⟨hswept.clock, hswept.mode, hswept.trackers, ?_, ?_, ?_, ?_, ?_, ?_, fun i => ⟨(hstands i).kept,
      (hstands i).aborted⟩⟩
    · rw [hport]; rfl
    · rw [hport]; rfl
    · rw [hport]; rfl
    · rw [State.reserved, hport]; rfl
    · rw [hport]; rfl
    · rw [hport]; rfl
end

section
/-! SUPPORT. The begun entry of the transmit queue, and a freed slot that no party waits for (O49, O50, O52). -/

namespace Sys2Proof

namespace Machine

/-! ### The queue around its begun entry -/

/-- `e` is the one begun entry of a transmit queue, between the older and the younger entries. -/
structure OneBegun (pre post : List TxEntry) (e : TxEntry) : Prop where
  begun : e.begun = true
  pre : ∀ a ∈ pre, a.begun = false
  post : ∀ a ∈ post, a.begun = false

section

variable {pre post : List TxEntry} {e : TxEntry} (h : OneBegun pre post e)

include h

theorem OneBegun.begunEntry : begunEntry (pre ++ e :: post) = some e := find?_split h.pre h.begun

theorem OneBegun.withoutBegun : withoutBegun (pre ++ e :: post) = pre ++ post := by
  have hkeeps (l : List TxEntry) (hl : ∀ a ∈ l, a.begun = false) : (l.filter fun a => !a.begun) = l :=
    List.filter_eq_self.2 fun a ha => by rw [hl a ha]; rfl
  rw [Machine.withoutBegun, List.filter_append, List.filter_cons, h.begun, hkeeps pre h.pre, hkeeps post h.post]
  rfl

theorem OneBegun.mapBegun (f : TxEntry → TxEntry) : mapBegun f (pre ++ e :: post) = pre ++ f e :: post := by
  have hkeeps (l : List TxEntry) (hl : ∀ a ∈ l, a.begun = false) :
      (l.map fun a => if a.begun then f a else a) = l :=
    (List.map_congr_left fun a ha => by rw [hl a ha]; rfl).trans (List.map_id l)
  rw [Machine.mapBegun, List.map_append, List.map_cons, h.begun, hkeeps pre h.pre, hkeeps post h.post]
  rfl

end

namespace State

/-! ### A freed slot that nobody waits for (R149) -/

/-- With no party waiting a freed slot stays free. -/
theorem offer_of_nothingWaits {s : State} (h : s.NothingWaits) : s.offer = s := by
  obtain ⟨hdrives, hnotices, howed, hhead⟩ := h
  have hreports : s.offerReports = s := by
    unfold offerReports
    rw [howed]
    split
    · rw [modPort, ← howed]
    · rfl
  have hhandler : s.handlerWaits = false := by
    unfold handlerWaits
    cases hrx : s.port.rx with
    | nil => rfl
    | cons f rest =>
      rw [Bool.and_eq_false_iff, Bool.not_eq_false']
      cases hc : f.callsForReply with
      | false => exact .inl rfl
      | true => exact .inr (hhead f (by rw [hrx]; rfl) hc)
  unfold offer
  rw [hdrives, hnotices, hhandler, hreports]
  exact ite_self s

end State

end Machine

end Sys2Proof
end

section
/-! SUPPORT. What the loss of a contest makes of the begun entry, by its kind (O49). -/

namespace Sys2Proof

namespace Machine

/-! ### REFERENCE entries of a stand -/

/-- The entry is no REFERENCE of this stand. -/
def NotReferenceOf (i : StandNo) (a : TxEntry) : Prop := ∀ v, a.body ≠ .reference i v

theorem isReference_eq_false {i : StandNo} {a : TxEntry} (h : NotReferenceOf i a) : a.isReference i = false := by
  unfold TxEntry.isReference
  split
  · rename_i j v hb
    refine beq_eq_false_iff_ne.2 ?_
    rintro rfl
    exact h v hb
  · rfl

/-- Entries that are begun, or no REFERENCE of the stand, show no waiting speed of it. -/
theorem waitingSpeed_append {i : StandNo} {l : List TxEntry} (h : ∀ a ∈ l, a.begun = true ∨ NotReferenceOf i a)
    (m : List TxEntry) : waitingSpeed i (l ++ m) = waitingSpeed i m := by
  unfold waitingSpeed
  rw [List.findSome?_append, List.findSome?_eq_none_iff.2, Option.none_or]
  intro a ha
  split
  · rename_i j v hb
    rw [if_neg]
    rintro ⟨rfl, hn⟩
    rcases h a ha with hbegun | href
    · rw [hbegun] at hn
      exact absurd hn (by decide)
    · exact href v hb
  all_goals rfl

theorem waitingSpeed_none {i : StandNo} {l : List TxEntry} (h : ∀ a ∈ l, a.begun = true ∨ NotReferenceOf i a) :
    waitingSpeed i l = none := by
  have := waitingSpeed_append h []
  rwa [List.append_nil] at this

theorem waitingSpeed_cons {i : StandNo} {a : TxEntry} {w : Nat} (hb : a.begun = false) (h : a.body = .reference i w)
    (m : List TxEntry) : waitingSpeed i (a :: m) = some w := by
  simp [waitingSpeed, h, hb]

namespace State

/-! ### A lost contest (R145, R96, R105, R138) -/

/-- The part reads the winner's frame from its first bit, before its own entry takes the loss. -/
def contestLost (s : State) (t : Time) (levels : List Bool) (tx : List TxEntry) : State :=
  { s with
    clock := t
    port := { s.port with sending := none, reading := .header, runs := s.port.runs.read levels, tx := tx } }

theorem exec_lostArbitration {s : State} (t : Time) {f : Frame} {levels : List Bool}
    (hs : s.port.sending = some ⟨f, levels, false⟩) :
    exec (.lostArbitration t) s = .next (s.contestLost t levels s.port.tx).entryLoses := by
  have hloses : exec (.lostArbitration t) s = .next (s.setClock t).losesContest := rfl
  rw [hloses, losesContest, port_setClock, hs]
  rfl

/-- A contest that was won is not lost (log entry 2). -/
theorem exec_lostArbitration_won {s : State} (t : Time) {f : Frame} {levels : List Bool}
    (hs : s.port.sending = some ⟨f, levels, true⟩) : exec (.lostArbitration t) s = .next { s with clock := t } := by
  have hloses : exec (.lostArbitration t) s = .next (s.setClock t).losesContest := rfl
  rw [hloses, losesContest, port_setClock, hs]
  rfl

section

variable {s : State} {t : Time} {levels : List Bool} {pre post : List TxEntry} {e : TxEntry} (h : OneBegun pre post e)

include h

theorem unbegin_contestLost : (s.contestLost t levels (pre ++ e :: post)).unbegin =
    s.contestLost t levels (pre ++ { e with begun := false } :: post) := by
  rw [unbegin, modPort, contestLost]
  dsimp only
  rw [h.mapBegun]
  rfl

/-- An entry that is neither REFERENCE nor report is not begun again, in its place. -/
theorem entryLoses_plain (href : ∀ i v, e.body ≠ .reference i v) (hrep : ∀ i c v, e.body ≠ .report i c v) :
    (s.contestLost t levels (pre ++ e :: post)).entryLoses =
      s.contestLost t levels (pre ++ { e with begun := false } :: post) := by
  rw [← unbegin_contestLost h, entryLoses, contestLost]
  dsimp only
  rw [h.begunEntry]
  dsimp only
  split
  · exact absurd ‹_› (href _ _)
  · exact absurd ‹_› (hrep _ _ _)
  all_goals rfl

theorem entryLoses_reference {i : StandNo} {v : Nat} (hb : e.body = .reference i v) :
    (s.contestLost t levels (pre ++ e :: post)).entryLoses =
      (s.contestLost t levels (pre ++ e :: post)).referenceLoses e i := by
  rw [entryLoses, contestLost]
  dsimp only
  rw [h.begunEntry]
  dsimp only
  rw [hb]

/-- A begun REFERENCE whose loop has stopped leaves (R105). -/
theorem entryLoses_dead {i : StandNo} {v : Nat} (hb : e.body = .reference i v) (hdead : e.dead = true)
    (hn : s.NothingWaits) : (s.contestLost t levels (pre ++ e :: post)).entryLoses =
      s.contestLost t levels (pre ++ post) := by
  have hleft : ((s.contestLost t levels (pre ++ e :: post)).modPort fun p => { p with tx := withoutBegun p.tx }) =
      s.contestLost t levels (pre ++ post) := by
    rw [modPort, contestLost]
    dsimp only
    rw [h.withoutBegun]
    rfl
  rw [entryLoses_reference h hb, referenceLoses, if_pos hdead, hleft]
  exact offer_of_nothingWaits (s := s.contestLost t levels (pre ++ post)) hn

/-- A begun REFERENCE that is the only one of its stand is not begun again (R145). -/
theorem entryLoses_only {i : StandNo} {v : Nat} (hb : e.body = .reference i v) (hlive : e.dead = false)
    (hpre : ∀ a ∈ pre, NotReferenceOf i a) (hpost : ∀ a ∈ post, NotReferenceOf i a) :
    (s.contestLost t levels (pre ++ e :: post)).entryLoses =
      s.contestLost t levels (pre ++ { e with begun := false } :: post) := by
  have hspeed : waitingSpeed i (s.contestLost t levels (pre ++ e :: post)).port.tx = none := by
    refine waitingSpeed_none fun a ha => ?_
    rcases List.mem_append.1 ha with ha | ha
    · exact .inr (hpre a ha)
    · rcases List.mem_cons.1 ha with rfl | ha
      · exact .inl h.begun
      · exact .inr (hpost a ha)
  rw [← unbegin_contestLost h, entryLoses_reference h hb, referenceLoses, if_neg (by simp [hlive]), hspeed]

/-- A begun REFERENCE takes the speed of the younger one of its stand, which leaves (R96). -/
theorem entryLoses_younger {i : StandNo} {v w : Nat} {young : TxEntry} {post' post'' : List TxEntry}
    (hb : e.body = .reference i v) (hlive : e.dead = false) (hpre : ∀ a ∈ pre, NotReferenceOf i a)
    (hsplit : post = post' ++ young :: post'') (hyoung : young.body = .reference i w)
    (hpost' : ∀ a ∈ post', NotReferenceOf i a) (hpost'' : ∀ a ∈ post'', NotReferenceOf i a) (hn : s.NothingWaits) :
    (s.contestLost t levels (pre ++ e :: post)).entryLoses =
      s.contestLost t levels (pre ++ { e with begun := false, body := .reference i w } :: (post' ++ post'')) := by
  subst hsplit
  have hidle : young.begun = false := h.post young (by simp)
  have hspeed : waitingSpeed i (s.contestLost t levels (pre ++ e :: (post' ++ young :: post''))).port.tx = some w := by
    have hleft : pre ++ e :: (post' ++ young :: post'') = (pre ++ e :: post') ++ young :: post'' := by simp
    rw [contestLost, hleft, waitingSpeed_append, waitingSpeed_cons hidle hyoung]
    intro a ha
    rcases List.mem_append.1 ha with ha | ha
    · exact .inr (hpre a ha)
    · rcases List.mem_cons.1 ha with rfl | ha
      · exact .inl h.begun
      · exact .inr (hpost' a ha)
  have hfilter : (pre ++ e :: (post' ++ young :: post'')).filter (fun a => a.begun || !(a.isReference i)) =
      pre ++ e :: (post' ++ post'') := by
    have hkeeps (l : List TxEntry) (hl : ∀ a ∈ l, NotReferenceOf i a) :
        l.filter (fun a => a.begun || !(a.isReference i)) = l :=
      List.filter_eq_self.2 fun a ha => by rw [isReference_eq_false (hl a ha), Bool.not_false, Bool.or_true]
    rw [List.filter_append, List.filter_cons_of_pos (by rw [h.begun]; rfl), List.filter_append,
      List.filter_cons_of_neg (by rw [hidle, isReference_of_body hyoung]; decide), hkeeps pre hpre, hkeeps post' hpost',
      hkeeps post'' hpost'']
  have hleft : OneBegun pre (post' ++ post'') e := ⟨h.begun, h.pre, fun a ha => h.post a (by
    rcases List.mem_append.1 ha with ha | ha <;> simp [ha])⟩
  have hrewritten : OneBegun pre (post' ++ post'') { e with body := .reference i w } := ⟨h.begun, hleft.pre, hleft.post⟩
  have htaken : ((s.contestLost t levels (pre ++ e :: (post' ++ young :: post''))).modPort fun p =>
      { p with tx := (p.tx.filter fun e => e.begun || !(e.isReference i)).map fun e =>
          if e.begun then { e with body := .reference i w } else e }) =
      s.contestLost t levels (pre ++ { e with body := .reference i w } :: (post' ++ post'')) := by
    have hmap := hleft.mapBegun fun a => { a with body := .reference i w }
    rw [Machine.mapBegun] at hmap
    rw [modPort, contestLost]
    dsimp only
    rw [hfilter, hmap]
    rfl
  rw [entryLoses_reference h hb, referenceLoses, if_neg (by simp [hlive]), hspeed]
  dsimp only
  rw [htaken, unbegin_contestLost hrewritten]
  exact offer_of_nothingWaits (s := s.contestLost t levels _) hn

theorem entryLoses_report {i : StandNo} {c : CtxState} {v : EventSet} (hb : e.body = .report i c v) :
    (s.contestLost t levels (pre ++ e :: post)).entryLoses =
      (s.contestLost t levels (pre ++ e :: post)).reportLoses i := by
  rw [entryLoses, contestLost]
  dsimp only
  rw [h.begunEntry]
  dsimp only
  rw [hb]

/-- A begun report whose mark is clear stays as it is (R138). -/
theorem entryLoses_report_unmarked {i : StandNo} {c : CtxState} {v : EventSet} (hb : e.body = .report i c v)
    (hm : i ∉ s.port.owedReports) : (s.contestLost t levels (pre ++ e :: post)).entryLoses =
      s.contestLost t levels (pre ++ { e with begun := false } :: post) := by
  have howed : (s.contestLost t levels (pre ++ e :: post)).port.owedReports.contains i = false := by
    simpa [contestLost] using hm
  rw [← unbegin_contestLost h, entryLoses_report h hb, reportLoses, howed]
  rfl

/-- A begun report whose mark is set, the only one of its stand, is brought up to date, and the mark cleared (R138). -/
theorem entryLoses_report_marked {i : StandNo} {c : CtxState} {v : EventSet} (hb : e.body = .report i c v)
    (hm : i ∈ s.port.owedReports) (hpre : ∀ a ∈ pre, ∀ c v, a.body ≠ .report i c v)
    (hpost : ∀ a ∈ post, ∀ c v, a.body ≠ .report i c v) :
    (s.contestLost t levels (pre ++ e :: post)).entryLoses =
      (s.contestLost t levels (pre ++ { e with begun := false, body := s.reportBody i } :: post)).modPort fun p =>
        { p with owedReports := s.port.owedReports.erase i } := by
  have howed : (s.contestLost t levels (pre ++ e :: post)).port.owedReports.contains i = true := by
    simpa [contestLost] using hm
  have hcleared : ((s.contestLost t levels (pre ++ e :: post)).modPort fun p =>
      { p with owedReports := p.owedReports.erase i }).unbegin =
      (s.contestLost t levels (pre ++ { e with begun := false } :: post)).modPort fun p =>
        { p with owedReports := s.port.owedReports.erase i } := by
    rw [← unbegin_contestLost h]
    rfl
  have hnone (l : List TxEntry) (hl : ∀ a ∈ l, ∀ c v, a.body ≠ .report i c v) :
      ∀ a ∈ l, ¬ a.isReport i = true := fun a ha hr => by
    obtain ⟨c, v, hr⟩ := TxEntry.isReport_iff.1 hr
    exact hl a ha c v hr
  rw [entryLoses_report h hb, reportLoses, howed, if_pos rfl, hcleared]
  refine (refreshReport_only (pre := pre) (post := post) (a := { e with begun := false }) rfl
    (TxEntry.isReport_iff.2 ⟨c, v, hb⟩) rfl (hnone pre hpre) (hnone post hpost)).trans ?_
  rfl

end

end State

end Machine

end Sys2Proof
end

section
open Sys2Proof Sys2Proof.Machine Sys2Proof.Machine.State

/-- Settles O49: the begun entry takes the loss by its kind, one lemma for each. -/
theorem lostArbitrationKeepsEntry : Obligations.LostArbitrationKeepsEntry := by
  refine ⟨fun s t f levels => exec_lostArbitration_won t, fun s t f levels pre post e hs htx hb hpre hpost => ?_⟩
  intro x notRef
  have h : OneBegun pre post e := ⟨hb, hpre, hpost⟩
  have hexec {u : State} (hu : (s.contestLost t levels (pre ++ e :: post)).entryLoses = u) :
      exec (.lostArbitration t) s = .next u := by
    rw [exec_lostArbitration t hs, htx, hu]
  refine ⟨fun href hrep => hexec (entryLoses_plain h href hrep),
    fun i v hbody hlive hr hr' => hexec (entryLoses_only h hbody hlive hr hr'),
    fun i v w young post' post'' hbody hlive hr hsplit hyoung hr' hr'' hn =>
      hexec (entryLoses_younger h hbody hlive hr hsplit hyoung hr' hr'' hn),
    fun i v hbody hdead hn => hexec (entryLoses_dead h hbody hdead hn),
    fun i c v hbody hm => hexec (entryLoses_report_unmarked h hbody hm),
    fun i c v hbody hm hr hr' => hexec (entryLoses_report_marked h hbody hm hr hr')⟩
end

section
/-! SUPPORT. The outcome of a frame whose contest is won, by the kind of its entry, and the slot that it frees (O50, O52). -/

namespace Sys2Proof

namespace Machine

theorem Frame.readBack_ended (f : Frame) (h p : Bool) : f.readBack (.ended h p) = f.readBits h p := by
  rw [Frame.readBack]

namespace State

/-! ### The end of the part's frame (R147, R148) -/

/-- The part's frame has ended so: the levels are read, and the entry's outcome has still to act. -/
def lineEnded (s : State) (t : Time) (f : Frame) (l : LineEnd) : State :=
  { s with
    clock := t
    port := { s.port with sending := none, runs := s.port.runs.read (f.readBack l) } }

/-- The begun entry has left the queue, and its slot has still to be offered. -/
def leaveSlot (s : State) : State := s.modPort fun p => { p with tx := withoutBegun p.tx }

section

variable {s : State} (t : Time) {f : Frame} {levels : List Bool} {l : LineEnd}

theorem exec_transmitOutcome (s : State) (l : LineEnd) :
    exec (.transmitOutcome t l) s = .next ((s.setClock t).frameEnds l) := rfl

/-- An outcome before the contest is won cannot come (log entry 2). -/
theorem exec_transmitOutcome_unwon (l : LineEnd) (hs : s.port.sending = some ⟨f, levels, false⟩) :
    exec (.transmitOutcome t l) s = .next { s with clock := t } := by
  rw [exec_transmitOutcome, frameEnds, port_setClock, hs]
  rfl

/-- A frame cannot end where no bit error can lie (log entry 2). -/
theorem exec_transmitOutcome_misplaced (hs : s.port.sending = some ⟨f, levels, true⟩) (hm : f.mayEnd l = false) :
    exec (.transmitOutcome t l) s = .next { s with clock := t } := by
  rw [exec_transmitOutcome, frameEnds, port_setClock, hs]
  simp only [hm, Bool.and_false, Bool.false_eq_true, if_false]
  rfl

/-- The outcome acts on the block that placed the entry, then the entry leaves, and then its slot is offered (R148; log
entry 19). -/
theorem exec_transmitOutcome_won {e : TxEntry} (hs : s.port.sending = some ⟨f, levels, true⟩) (hm : f.mayEnd l = true)
    (hb : begunEntry s.port.tx = some e) :
    exec (.transmitOutcome t l) s =
      .next ((s.lineEnded t f l).handOutcome e (f.outcome l)).leaveSlot.offer := by
  rw [exec_transmitOutcome, frameEnds, port_setClock, hs]
  simp only [hm, Bool.and_self, if_true]
  change Host.Outcome.next ((s.lineEnded t f l).entryEnds (f.outcome l)) = _
  rw [entryEnds, show begunEntry (s.lineEnded t f l).port.tx = some e from hb]
  rfl

end

theorem leaveSlot_eq {s : State} {pre post : List TxEntry} {e : TxEntry} (h : OneBegun pre post e)
    (htx : s.port.tx = pre ++ e :: post) : s.leaveSlot = { s with port := { s.port with tx := pre ++ post } } := by
  rw [leaveSlot, modPort, htx, h.withoutBegun]

/-! ### What each owner makes of an outcome (R101, R102, R134) -/

section

variable (s : State) (i : StandNo) (r : TxOutcome)

/-- Neither a report's nor a reply's outcome changes anything. -/
theorem handOutcome_answer {e : TxEntry} (h : (∃ v r d, e.body = .reply v r d) ∨ ∃ i c v, e.body = .report i c v) :
    s.handOutcome e r = s := by
  rcases h with ⟨_, _, _, h⟩ | ⟨_, _, _, h⟩
  · rw [handOutcome, h]
  · rw [handOutcome, h]

theorem handOutcome_notice {e : TxEntry} {n : Notice} (h : e.body = .notice n) :
    s.handOutcome e r = if r = .sent then s else s.markUnacked n.seq := by
  rw [handOutcome, h]
  cases r <;> rfl

theorem handOutcome_drive {e : TxEntry} (h : e.body = .release i ∨ ∃ v, e.body = .handover i v) :
    s.handOutcome e r = if r = .sent then s else s.raise i .driveFault := by
  rcases h with h | ⟨_, h⟩
  · rw [handOutcome, h]
    cases r <;> rfl
  · rw [handOutcome, h]
    cases r <;> rfl

/-- The outcome of a REFERENCE whose loop has stopped is counted by nobody. -/
theorem handOutcome_reference_stopped {e : TxEntry} {v : Nat} (h : e.body = .reference i v)
    (hs : e.dead = true ∨ (s.stand i).loop.activity = .stopped) : s.handOutcome e r = s := by
  rw [handOutcome, h]
  dsimp only
  rw [if_neg]
  rcases hs with hs | hs <;> simp [hs]

theorem handOutcome_reference {e : TxEntry} {v : Nat} (h : e.body = .reference i v) (hlive : e.dead = false)
    (hruns : (s.stand i).loop.activity ≠ .stopped) : s.handOutcome e r = s.referenceOutcome i r := by
  rw [handOutcome, h]
  dsimp only
  rw [if_pos (by simp [hlive, hruns])]

/-- The loop with its no-ack run at `n`. -/
def setNoAckRun (s : State) (i : StandNo) (n : Nat) : State := s.modLoop i fun l => { l with noAckRun := n }

theorem referenceOutcome_sent : s.referenceOutcome i .sent = s.setNoAckRun i 0 := rfl

/-- A frame that was not acknowledged raises the no-ack run; at the third the drive has failed (R101). -/
theorem referenceOutcome_failed (hr : r ≠ .sent) : s.referenceOutcome i r =
    if (s.stand i).loop.noAckRun = 2 then
      ((s.setNoAckRun i 3).raise i .driveFault).abortBeforeFire i .driveFault
    else s.setNoAckRun i (min 3 ((s.stand i).loop.noAckRun + 1)) := by
  have hfails : s.referenceOutcome i r =
      if (s.stand i).loop.noAckRun = 2 then
        ((s.setNoAckRun i (capNat 3 ((s.stand i).loop.noAckRun + 1))).raise i .driveFault).abortBeforeFire i .driveFault
      else s.setNoAckRun i (capNat 3 ((s.stand i).loop.noAckRun + 1)) := by
    cases r with
    | sent => exact absurd rfl hr
    | noAck => rfl
    | busError => rfl
  rw [hfails, capNat_eq_min]
  split
  · rename_i h
    rw [h]
    rfl
  · rfl

end

/-- What the drive fault of a third failed REFERENCE leaves of its stand (R101, R83). -/
theorem stand_driveFails (s : State) (i : StandNo) :
    let x := s.stand i
    let y := (((s.setNoAckRun i 3).raise i .driveFault).abortBeforeFire i .driveFault).stand i
    y.loop.noAckRun = 3 ∧ hasEvent y.events .driveFault = true ∧
      (x.ctx.state.beforeFire = true → y.ctx.state = .stopping ∧ y.ctx.cause = some .driveFault) ∧
      (x.ctx.state.beforeFire = false → y.ctx = x.ctx) := by
  intro x y
  have hraised : ((s.setNoAckRun i 3).raise i .driveFault).stand i =
      { x with loop := { x.loop with noAckRun := 3 }, events := withEvent x.events .driveFault } := by
    rw [stand_raise_eq, if_pos rfl, setNoAckRun, stand_modLoop, if_pos rfl]
  have hevent := hasEvent_withEvent x.events .driveFault
  by_cases hb : x.ctx.state.beforeFire = true
  · have hy : y = (((s.setNoAckRun i 3).raise i .driveFault).abort i .driveFault).stand i := by
      simp only [y, abortBeforeFire, hraised, hb, if_true]
    obtain ⟨horn, -, hs⟩ := stand_abort ((s.setNoAckRun i 3).raise i .driveFault) i .driveFault
    rw [hy, hs, hraised]
    exact ⟨rfl, hasEvent_latched_of_has hevent _, fun _ => ⟨rfl, rfl⟩, fun hn => absurd (hb.symm.trans hn) nofun⟩
  · have hy : y = ((s.setNoAckRun i 3).raise i .driveFault).stand i := by
      simp only [y, abortBeforeFire, hraised, hb, Bool.false_eq_true, if_false]
    rw [hy, hraised]
    exact ⟨rfl, hevent, fun h => absurd h hb, fun _ => rfl⟩

/-- The end of a reply's or a report's frame only frees its slot. -/
theorem exec_transmitOutcome_answer {s : State} {f : Frame} {levels : List Bool} {pre post : List TxEntry} {e : TxEntry}
    (t : Time) (h p : Bool) (hs : s.port.sending = some ⟨f, levels, true⟩) (htx : s.port.tx = pre ++ e :: post)
    (hone : OneBegun pre post e) (hbody : (∃ v r d, e.body = .reply v r d) ∨ ∃ i c v, e.body = .report i c v) :
    exec (.transmitOutcome t (.ended h p)) s =
      .next (State.offer { s with
        clock := t
        port := { s.port with sending := none, runs := s.port.runs.read (f.readBits h p), tx := pre ++ post } }) := by
  rw [exec_transmitOutcome_won (e := e) t hs rfl (by rw [htx]; exact hone.begunEntry), handOutcome_answer _ _ hbody,
    leaveSlot_eq (s := s.lineEnded t f (.ended h p)) hone htx, lineEnded, Frame.readBack_ended]

/-- An outcome that acts on one stand, and the freed slot, leave the other stands and blocks of the part alone. -/
theorem keepsOthers_slotFreed {s u : State} {i : StandNo} (h : OwnChange i s u) (tx : List TxEntry) :
    KeepsOthers i { s with port := { s.port with tx := tx } } u.leaveSlot.offer := by
  have hback : TxOnly { s with port := { s.port with tx := tx } } s := ⟨rfl⟩
  have hleave : TxOnly u u.leaveSlot := ⟨rfl⟩
  exact ((hback.own i).trans (h.trans ((hleave.trans (offer_txOnly _)).own i))).toKeepsOthers

theorem stand_slotFreed (u : State) (i : StandNo) : u.leaveSlot.offer.stand i = u.stand i :=
  (offer_txOnly u.leaveSlot).stand i

end State

/-! ### The outcomes that the line gives (R147) -/

theorem Frame.outcome_group {f : Frame} (h : 240 ≤ f.target.toNat) (a b : Bool) : f.outcome (.ended a b) = .sent := by
  rw [Frame.outcome, individual_eq_false h]
  rfl

theorem Frame.outcome_individual {f : Frame} (h : f.target.toNat < 240) (a b : Bool) :
    f.outcome (.ended a b) = if a = true ∧ b = true then .sent else .noAck := by
  rw [Frame.outcome, individual_eq_true h]
  cases a <;> cases b <;> rfl

/-- The bit times at which a bit error can lie: past the contest, outside the slots, before the frame's end. -/
theorem Frame.mayEnd_bitError_iff (f : Frame) (h : Bool) (n : Nat) :
    f.mayEnd (.bitError h n) = true ↔ 9 ≤ n ∧ n ≠ 45 ∧ n + 1 < (f.readBits h false).length := by
  simp [Frame.mayEnd, and_assoc]

theorem Frame.mayEnd_of_errors {f : Frame} {l : LineEnd}
    (h : ∀ a n, l = .bitError a n → 9 ≤ n ∧ n ≠ 45 ∧ n + 1 < (f.readBits a false).length) : f.mayEnd l = true := by
  cases l with
  | bitError a n => exact (f.mayEnd_bitError_iff a n).2 (h a n rfl)
  | ended a b => rfl

end Machine

end Sys2Proof
end

section
open Sys2Proof Sys2Proof.Machine Sys2Proof.Machine.State

/-- Settles O50: the outcome goes to the owner of the begun entry, one lemma for each kind, the entry leaves, and its slot stays
free while nobody waits. -/
theorem transmitOutcomes : Obligations.TransmitOutcomes := by
  refine ⟨fun f a b n => ⟨rfl, fun h => f.outcome_group h a b, fun h => f.outcome_individual h a b⟩,
    fun s t f levels l hs => exec_transmitOutcome_unwon t l hs, fun s t f levels h n hs hn => ?_,
    fun s t pre post e f levels l hs herror htx hb hpre hpost hn => ?_⟩
  · refine exec_transmitOutcome_misplaced t hs ?_
    rw [← Bool.not_eq_true, Frame.mayEnd_bitError_iff]
    omega
  · intro good read x
    have hone : OneBegun pre post e := ⟨hb, hpre, hpost⟩
    have hslot {y : State} (hy : y.port.tx = s.port.tx) : y.leaveSlot = { y with port := { y.port with tx := pre ++ post } } :=
      leaveSlot_eq hone (hy.trans htx)
    have hread : f.readBack l = read := by
      cases l <;> rw [Frame.readBack]
    have hx : x = { s.lineEnded t f l with port := { (s.lineEnded t f l).port with tx := pre ++ post } } := by
      rw [lineEnded, hread]
    have hexec : exec (.transmitOutcome t l) s =
        .next ((s.lineEnded t f l).handOutcome e (f.outcome l)).leaveSlot.offer :=
      exec_transmitOutcome_won t hs (Frame.mayEnd_of_errors herror) (by rw [htx]; exact hone.begunEntry)
    -- An outcome that leaves the queue and its parties leaves the slot free.
    have hfree {y z : State} (hy : (s.lineEnded t f l).handOutcome e (f.outcome l) = y)
        (hz : y.leaveSlot = z) (hnz : z.NothingWaits) : exec (.transmitOutcome t l) s = .next z := by
      rw [hexec, hy, hz, offer_of_nothingWaits hnz]
    have hxn : x.NothingWaits := hn
    have hquiet (hy : (s.lineEnded t f l).handOutcome e (f.outcome l) = s.lineEnded t f l) :
        exec (.transmitOutcome t l) s = .next x := hfree hy ((hslot (y := s.lineEnded t f l) rfl).trans hx.symm) hxn
    have hown {u : State} {i : StandNo} (hu : OwnChange i (s.lineEnded t f l) u) : KeepsOthers i x u.leaveSlot.offer :=
      hx ▸ keepsOthers_slotFreed hu (pre ++ post)
    refine ⟨fun hbody => hquiet (handOutcome_answer _ _ hbody), fun n hbody => ?_, fun i hbody => ⟨fun hgood => ?_,
      fun hbad => ?_⟩, fun i v hbody hstopped => hquiet (handOutcome_reference_stopped _ i _ hbody hstopped),
      fun i v hbody hlive hruns => ?_⟩
    · by_cases hgood : f.outcome l = .sent
      · rw [if_pos hgood]
        exact hquiet (by rw [handOutcome_notice _ _ hbody, if_pos hgood])
      · rw [if_neg hgood]
        refine hfree (y := (s.lineEnded t f l).markUnacked n.seq) ?_ ?_ hxn
        · rw [handOutcome_notice _ _ hbody, if_neg hgood]
        · rw [hslot (y := (s.lineEnded t f l).markUnacked n.seq) rfl, hx]
          rfl
    · exact hquiet (by rw [handOutcome_drive _ i _ hbody, if_pos hgood])
    · rw [hexec, handOutcome_drive _ i _ hbody, if_neg hbad]
      refine ⟨_, rfl, hown (raise_own _ i _), ?_⟩
      rw [stand_slotFreed, stand_raise_eq, if_pos rfl]
      rfl
    · intro run
      have hset (k : Nat) (hy : (s.lineEnded t f l).handOutcome e (f.outcome l) = (s.lineEnded t f l).setNoAckRun i k) :
          exec (.transmitOutcome t l) s =
            .next (x.setStand i { s.stand i with loop := { (s.stand i).loop with noAckRun := k } }) := by
        refine hfree hy ?_ hxn
        rw [hslot (y := (s.lineEnded t f l).setNoAckRun i k) rfl, hx]
        rfl
      have href := handOutcome_reference (s.lineEnded t f l) i (f.outcome l) hbody hlive hruns
      have hcounts : ((s.lineEnded t f l).stand i).loop.noAckRun = run := rfl
      refine ⟨fun hgood => hset 0 ?_, fun hbad hrun => hset (min 3 (run + 1)) ?_, fun hbad hrun => ?_⟩
      · rw [href, hgood, referenceOutcome_sent]
      · rw [href, referenceOutcome_failed _ _ _ hbad, hcounts, if_neg hrun]
      · rw [hexec, href, referenceOutcome_failed _ _ _ hbad, hcounts, if_pos hrun]
        refine ⟨_, rfl, hown ((modLoop_own _ i _).trans ((raise_own _ i _).trans (abortBeforeFire_own _ i _))), ?_⟩
        rw [stand_slotFreed]
        exact stand_driveFails (s.lineEnded t f l) i

/-- Settles O52: the slot that a reply's or a report's entry leaves is the one free slot that the arbiter offers. -/
theorem slotArbiterServes : Obligations.SlotArbiterServes := by
  intro s t pre post e f levels h p hs htx hb hpre hpost hbody hroom x answer waits standing
  have hone : OneBegun pre post e := ⟨hb, hpre, hpost⟩
  have hanswer : answer = .next x.offer := exec_transmitOutcome_answer t h p hs htx hone hbody
  obtain ⟨hdrive, hnotice, hrest⟩ := offer_spec x ((hasFree_iff x).2 (by
    rw [show x.port.tx = pre ++ post from rfl, List.length_append]
    exact hroom))
  rw [hanswer]
  refine ⟨fun i k rest hw => congrArg _ (hdrive i k rest hw), fun n rest hd hw => congrArg _ (hnotice n rest hd hw),
    fun hd hw => ?_⟩
  obtain ⟨hhandler, hreports⟩ := hrest hd hw
  refine ⟨fun g hg => congrArg _ (hhandler g hg), fun hg => ?_⟩
  obtain ⟨hdecline, howed, hpassed⟩ := hreports hg
  exact ⟨fun h0 => congrArg _ (hdecline h0),
    fun before i after h0 hq hni hst hns => congrArg _ (howed before i after h0 hq hni hst hns),
    fun h0 hst => congrArg _ (hpassed h0 hst)⟩
end

section
/-! SUPPORT. RESTART by the part mode, and what it leaves of a stand that the taking has touched (O5). -/

namespace Sys2Proof

namespace Machine

namespace State

variable {s : State} {f : Frame}

theorem exec_restart_refused (h : s.CanTake f) (t : Time) (hv : f.verb = 0x65) (hm : s.mode ≠ .config) :
    exec (.restart t) s = .next ((s.taking t f).replied f .wrongMode []) :=
  exec_answers h rfl (carries_of_verb hv) (if_neg hm)

theorem exec_restart_taken (h : s.CanTake f) (t : Time) (hv : f.verb = 0x65) (hm : s.mode = .config) :
    exec (.restart t) s = .next ((s.taking t f).restarted.replied f .accepted []) :=
  exec_answers h rfl (carries_of_verb hv) (if_pos hm)

/-- The lock that the taking re-arms is freed by RESTART, so the stand is that of a RESTART alone (R170, R171). -/
theorem restarted_stand_taking (s : State) (t : Time) (f : Frame) (i : StandNo) :
    (s.taking t f).restarted.stand i = (s.stand i).restart := by
  rw [restarted_stand, stand_taking]
  rfl

/-- A port as RESTART leaves it holds no reservation (R156). -/
theorem not_reserved_of_restart {p : Port} (h : s.port = p.restart) : s.reserved = false := by
  unfold reserved
  rw [h, Port.restart]
  cases p.reading <;> rfl

end State

end Machine

end Sys2Proof
end

section
open Sys2Proof Sys2Proof.Machine Sys2Proof.Machine.State

/-- Settles O5: the mode decides, and a taken RESTART leaves the part as `restarted_rest` has it, its stands as
`Stand.restart` and its trackers at their start. -/
theorem restartKeepsAndResets : Obligations.RestartKeepsAndResets := by
  intro s t f h hv
  refine ⟨exec_restart_refused h t hv, fun hm => ⟨_, exec_restart_taken h t hv hm, ?_⟩⟩
  have hrest := restarted_rest (s.taking t f)
  have htracker := restarted_tracker (s.taking t f)
  have hstand := restarted_stand_taking s t f
  generalize (s.taking t f).restarted = u at hrest htracker hstand ⊢
  have hport : u.port = s.port.restart := congrArg State.port hrest
  have hreplied (i : StandNo) : (u.replied f .accepted []).stand i = (s.stand i).restart := hstand i
  refine ⟨(congrArg clock hrest :), (congrArg mode hrest :).trans hm, (congrArg grades hrest :), (congrArg line hrest :),
    (congrArg nextSeq hrest :), (congrArg scanNext hrest :), (congrArg log hrest :), ?_,
    (not_reserved_of_restart hport :), htracker, fun i => ?_, fun i => ?_⟩
  · unfold replied
    rw [hport, hv]
    rfl
  · rw [hreplied]
    exact ⟨rfl, rfl⟩
  · rw [hreplied]
    rfl
end

section
/-! SUPPORT. TAKE CONTROL and GIVE CONTROL of one stand, by the lock they find, and the expiry of a held lock (O21). -/

namespace Sys2Proof

namespace Machine

namespace State

variable {s : State} {f : Frame} {i : StandNo} {l : ControlLock}

/-! ### The requests that name a stand -/

theorem answerTakeControl_named (hp : f.payload.head? = some (BitVec.ofNat 8 (i.val + 1))) (x : State) :
    answerTakeControl f x = x.takeControl f i := by
  obtain ⟨more, hp⟩ := List.head?_eq_some_iff.1 hp
  simp only [answerTakeControl, hp, toNat_standByte, standOf_standNumber]

theorem answerGiveControl_named (hp : f.payload.head? = some (BitVec.ofNat 8 (i.val + 1))) (x : State) :
    answerGiveControl f x = x.giveControl f i := by
  obtain ⟨more, hp⟩ := List.head?_eq_some_iff.1 hp
  simp only [answerGiveControl, hp, toNat_standByte, standOf_standNumber]

/-! ### The data of their replies (R158) -/

theorem controlAnswer_free (h : (s.stand i).lock = none) (r : Result) :
    s.controlAnswer i r = ⟨s, r, [BitVec.ofNat 8 (i.val + 1), 0]⟩ := by
  simp only [controlAnswer, holderByte, h]
  rfl

theorem controlAnswer_held (h : (s.stand i).lock = some l) (r : Result) :
    s.controlAnswer i r = ⟨s, r, [BitVec.ofNat 8 (i.val + 1), l.holder]⟩ := by
  simp only [controlAnswer, holderByte, h]
  rfl

/-! ### What they do (R167, R168) -/

/-- The part with a stand's control lock held or free. -/
def withLock (s : State) (i : StandNo) (l : Option ControlLock) : State := s.setStand i { s.stand i with lock := l }

@[simp] theorem lock_withLock (s : State) (i : StandNo) (l : Option ControlLock) : ((s.withLock i l).stand i).lock = l := by
  simp [withLock]

theorem takeControl_of_free (h : (s.stand i).lock = none) (f : Frame) : s.takeControl f i =
    ⟨s.withLock i (some ⟨f.sender, s.clock + 5000000⟩), .accepted, [BitVec.ofNat 8 (i.val + 1), f.sender]⟩ := by
  unfold takeControl
  rw [h]
  exact controlAnswer_held (lock_withLock s i _) .accepted

theorem takeControl_of_held (h : (s.stand i).lock = some l) (f : Frame) : s.takeControl f i =
    ⟨s, if l.holder = f.sender then .accepted else .locked, [BitVec.ofNat 8 (i.val + 1), l.holder]⟩ := by
  unfold takeControl
  rw [h]
  exact controlAnswer_held h _

theorem giveControl_of_free (h : (s.stand i).lock = none) (f : Frame) :
    s.giveControl f i = ⟨s, .accepted, [BitVec.ofNat 8 (i.val + 1), 0]⟩ := by
  unfold giveControl
  rw [h]
  exact controlAnswer_free h .accepted

theorem giveControl_of_own (h : (s.stand i).lock = some l) (hl : l.holder = f.sender) :
    s.giveControl f i = ⟨s.withLock i none, .accepted, [BitVec.ofNat 8 (i.val + 1), 0]⟩ := by
  unfold giveControl
  rw [h]
  exact (if_pos hl).trans (controlAnswer_free (lock_withLock s i none) .accepted)

theorem giveControl_of_other (h : (s.stand i).lock = some l) (hl : l.holder ≠ f.sender) :
    s.giveControl f i = ⟨s, .locked, [BitVec.ofNat 8 (i.val + 1), l.holder]⟩ := by
  unfold giveControl
  rw [h]
  exact (if_neg hl).trans (controlAnswer_held h .locked)

/-- A held lock at its expiry becomes free (R170). -/
theorem lockEnds_of_due (h : (s.stand i).lock = some l) (he : l.expiry = s.clock) : s.lockEnds i = s.withLock i none := by
  simp [lockEnds, withLock, modStand, h, he]

/-! ### A lock through the taking of a frame (R170) -/

theorem lock_taking_free (h : (s.stand i).lock = none) (t : Time) (f : Frame) : ((s.taking t f).stand i).lock = none := by
  rw [stand_taking]
  simp [h]

/-- The taking leaves every lock with its holder. -/
theorem lock_taking_held (h : (s.stand i).lock = some l) (t : Time) (f : Frame) :
    ∃ k, ((s.taking t f).stand i).lock = some k ∧ k.holder = l.holder := by
  rw [stand_taking, h]
  refine ⟨_, rfl, ?_⟩
  dsimp only
  split <;> rfl

end State

end Machine

end Sys2Proof
end

section
open Sys2Proof Sys2Proof.Machine Sys2Proof.Machine.State

/-- Settles O21: each request is decided by the lock it finds, whose holder the taking of the frame leaves. -/
theorem controlLocksTakenAndFreed : Obligations.ControlLocksTakenAndFreed := by
  constructor
  · intro s t f i more h hp x n
    have hhead : f.payload.head? = some (BitVec.ofNat 8 (i.val + 1)) := by rw [hp]; rfl
    have takes (hv : f.verb = 0x62) {u : State} {r : Result} {d : List Byte} (hb : x.takeControl f i = ⟨u, r, d⟩) :
        exec (.takeControl t) s = .next (u.replied f r d) :=
      exec_answers h rfl (carries_of_verb hv) ((answerTakeControl_named hhead x).trans hb)
    have gives (hv : f.verb = 0x63) {u : State} {r : Result} {d : List Byte} (hb : x.giveControl f i = ⟨u, r, d⟩) :
        exec (.giveControl t) s = .next (u.replied f r d) :=
      exec_answers h rfl (carries_of_verb hv) ((answerGiveControl_named hhead x).trans hb)
    refine ⟨fun hv hfree => ?_, fun l hv hl => ?_, fun hv hfree => ?_, fun l hv hl hown => ?_, fun l hv hl hother => ?_⟩
    · exact takes hv (takeControl_of_free (lock_taking_free hfree t f) f)
    · obtain ⟨k, hk, hholder⟩ := lock_taking_held hl t f
      rw [← hholder]
      exact takes hv (takeControl_of_held hk f)
    · exact gives hv (giveControl_of_free (lock_taking_free hfree t f) f)
    · obtain ⟨k, hk, hholder⟩ := lock_taking_held hl t f
      exact gives hv (giveControl_of_own hk (hholder.trans hown))
    · exact gives hv (giveControl_of_other (lock_taking_other hl hother t) hother)
  · intro s t i l hl he
    exact congrArg Host.Outcome.next (lockEnds_of_due (s := s.setClock t) hl he)
end

section
/-! SUPPORT. SET MODE RUN and SET MODE CONFIG: the check of R163, the resting contexts of R165, and the part in its new mode
(O16). -/

namespace Sys2Proof

namespace Machine

namespace State

variable {s : State} {f : Frame}

/-! ### The request -/

/-- A SET MODE that carries a mode's code is taken by the row of that mode. -/
theorem takesMode_code (m : Mode) (hv : f.verb = 0x60) (hp : f.payload.head? = some (BitVec.ofNat 8 m.code)) :
    takesMode m f = true := by
  have hcode : (BitVec.ofNat 8 m.code).toNat = m.code := by cases m <;> rfl
  rw [List.head?_eq_getElem?] at hp
  simp [takesMode, carriesCode, verbSetMode, hv, hp, hcode]

theorem setMode_of_code {m : Mode} (hp : f.payload.head? = some (BitVec.ofNat 8 m.code)) (x : State) (k : Answer) :
    x.setMode f m k = k := if_pos hp

theorem exec_setModeRun (h : s.CanTake f) (t : Time) (o : List StandNo) (hv : f.verb = 0x60)
    (hp : f.payload.head? = some 1) {u : State} {r : Result} {d : List Byte}
    (hb : (s.taking t f).setModeRun o = ⟨u, r, d⟩) : exec (.setModeRun t o) s = .next (u.replied f r d) :=
  exec_answers h rfl (takesMode_code .run hv hp) ((setMode_of_code (m := .run) hp _ _).trans hb)

theorem exec_setModeConfig (h : s.CanTake f) (t : Time) (o : List StandNo) (hv : f.verb = 0x60)
    (hp : f.payload.head? = some 0) {u : State} {r : Result} {d : List Byte}
    (hb : (s.taking t f).setModeConfig o = ⟨u, r, d⟩) : exec (.setModeConfig t o) s = .next (u.replied f r d) :=
  exec_answers h rfl (takesMode_code .config hv hp) ((setMode_of_code (m := .config) hp _ _).trans hb)

/-- The reply to a SET MODE carries the mode in force. -/
theorem modeAnswer_eq {m : Mode} (h : s.mode = m) (r : Result) : s.modeAnswer r = ⟨s, r, [BitVec.ofNat 8 m.code]⟩ := by
  rw [modeAnswer, h]
  rfl

/-! ### SET MODE RUN (R163) -/

theorem recordValid_iff (s : State) (r : StandRecord) : s.recordValid r = true ↔
    standInRange r = true ∧ r.driveStation ≠ s.line.lineMaster ∧ r.driveStation ≠ s.port.station := by
  simp only [recordValid, Bool.and_eq_true, Bool.not_eq_true', beq_eq_false_iff_ne, and_assoc]

theorem mayRun_iff (s : State) : s.mayRun = true ↔
    s.line.lineMaster ≠ 0 ∧ ∀ i, (s.stand i).record.enabled = true → standInRange (s.stand i).record = true ∧
      (s.stand i).record.driveStation ≠ s.line.lineMaster ∧ (s.stand i).record.driveStation ≠ s.port.station := by
  have hstand (i : StandNo) : (!(s.stand i).record.enabled || s.recordValid (s.stand i).record) = true ↔
      ((s.stand i).record.enabled = true → standInRange (s.stand i).record = true ∧
        (s.stand i).record.driveStation ≠ s.line.lineMaster ∧ (s.stand i).record.driveStation ≠ s.port.station) := by
    rw [← recordValid_iff]
    cases (s.stand i).record.enabled <;> simp
  simp only [mayRun, Bool.and_eq_true, Bool.not_eq_true', beq_eq_false_iff_ne, List.all_eq_true, mem_allStands,
    forall_const, hstand]

/-- The taking of a frame leaves what the check of R163 reads. -/
theorem mayRun_taking (s : State) (t : Time) (f : Frame) : (s.taking t f).mayRun = s.mayRun := by
  simp [mayRun, recordValid]

theorem setModeRun_of_invalid (hm : s.mode = .config) (h : s.mayRun = false) (o : List StandNo) :
    s.setModeRun o = ⟨s, .badValue, [0]⟩ := by
  unfold setModeRun
  rw [hm, h]
  exact modeAnswer_eq hm .badValue

theorem setModeRun_changes (h : s.mode = .config ∧ s.mayRun = true ∨ s.mode = .hold) (o : List StandNo) :
    s.setModeRun o = ⟨s.goRun o, .accepted, [1]⟩ := by
  have hrun := modeAnswer_eq (goRun_settled s o).mode .accepted
  unfold setModeRun
  rcases h with ⟨hm, hmay⟩ | hm
  · rw [hm, hmay]
    exact hrun
  · rw [hm]
    exact hrun

theorem setModeRun_in_run (hm : s.mode = .run) (o : List StandNo) : s.setModeRun o = ⟨s, .accepted, [1]⟩ := by
  unfold setModeRun
  rw [hm]
  exact modeAnswer_eq hm .accepted

/-! ### SET MODE CONFIG (R165, R90) -/

theorem setModeConfig_in_config (hm : s.mode = .config) (o : List StandNo) :
    s.setModeConfig o = ⟨s, .accepted, [0]⟩ := by
  unfold setModeConfig
  rw [hm]
  exact modeAnswer_eq hm .accepted

/-- Outside CONFIG the contexts decide. -/
theorem setModeConfig_elsewhere (hm : s.mode ≠ .config) (o : List StandNo) : s.setModeConfig o =
    if allStands.all fun i => (s.stand i).ctx.state.resting then (s.goConfig o).modeAnswer .accepted
    else s.modeAnswer .wrongState := by
  unfold setModeConfig
  split
  · exact absurd ‹_› hm
  all_goals rfl

theorem setModeConfig_refused (hm : s.mode ≠ .config) (h : ∃ i, (s.stand i).ctx.state.resting = false) (o : List StandNo) :
    s.setModeConfig o = ⟨s, .wrongState, [BitVec.ofNat 8 s.mode.code]⟩ := by
  obtain ⟨i, hi⟩ := h
  have hnot : ¬ (allStands.all fun i => (s.stand i).ctx.state.resting) = true := fun hall => by
    have := List.all_eq_true.1 hall i (mem_allStands i)
    rw [hi] at this
    cases this
  rw [setModeConfig_elsewhere hm, if_neg hnot]
  exact modeAnswer_eq rfl .wrongState

theorem setModeConfig_changes (hm : s.mode ≠ .config) (h : ∀ i, (s.stand i).ctx.state.resting = true) (o : List StandNo) :
    s.setModeConfig o = ⟨s.goConfig o, .accepted, [0]⟩ := by
  rw [setModeConfig_elsewhere hm, if_pos (List.all_eq_true.2 fun i _ => h i)]
  exact modeAnswer_eq (goConfig_settled s o).1 .accepted

/-- A change to CONFIG changes the mode and the stands alone. -/
theorem goConfig_rest (s : State) (o : List StandNo) :
    s.goConfig o = { s with mode := .config, stands := (s.goConfig o).stands } :=
  forStands_keeps o _ (fun u => u = { s with mode := .config, stands := u.stands })
    (fun i x hx => by rw [settle_rest, modCtx_eq, modStand, setStand, hx]) _ (mapStands_rest _ _)

/-- A resting context whose auto mark has been cleared settles in CONFIG to IDLE, or to OFF when its stand is disabled
(R90). -/
theorem settledCtx_released {x : Stand} (h : x.ctx.state.resting = true) :
    (settledCtx .config (released x)).auto = false ∧
      (settledCtx .config (released x)).state = if x.record.enabled then .idle else .off := by
  have hrest : restingFor .config (released x) = if x.record.enabled then .idle else .off := by
    cases he : x.record.enabled <;> simp [restingFor, released, he]
  have hr : (released x).ctx.state.resting = true := h
  unfold settledCtx
  split
  · next hcase =>
    refine ⟨rfl, ?_⟩
    rcases hcase with hno | hsame
    · rw [hr] at hno
      cases hno
    · exact hsame.symm.trans hrest
  · exact ⟨rfl, hrest⟩

end State

end Machine

end Sys2Proof
end

section
open Sys2Proof Sys2Proof.Machine Sys2Proof.Machine.State

/-- Settles O16: the mode and the check of R163, or the mode and the contexts, decide; the change itself is
`goRun_settled` or `goConfig_settled`. -/
theorem setModeRunAndConfig : Obligations.SetModeRunAndConfig := by
  constructor
  · intro s t o f h hv hp x ok
    have hok : x.mayRun = true ↔ ok := by rw [mayRun_taking, mayRun_iff]
    refine ⟨fun hm hno => ?_, fun hcase => ⟨_, ?_, goRun_settled x o⟩, fun hm => ?_⟩
    · exact exec_setModeRun h t o hv hp (setModeRun_of_invalid (s := x) hm (Bool.eq_false_iff.2 (hno ∘ hok.1)) o)
    · exact exec_setModeRun h t o hv hp (setModeRun_changes (s := x) (hcase.imp_left fun ⟨hm, hyes⟩ => ⟨hm, hok.2 hyes⟩) o)
    · exact exec_setModeRun h t o hv hp (setModeRun_in_run (s := x) hm o)
  · intro s t o f h hv hp x
    have hctx (i : StandNo) : (x.stand i).ctx = (s.stand i).ctx := ctx_taking s t f i
    refine ⟨fun hm => ?_, fun hm ⟨i, hi⟩ => ?_, fun hm hall => ?_⟩
    · exact exec_setModeConfig h t o hv hp (setModeConfig_in_config (s := x) hm o)
    · exact exec_setModeConfig h t o hv hp (setModeConfig_refused (s := x) hm ⟨i, by rw [hctx, hi]⟩ o)
    · have hrest (i : StandNo) : (x.stand i).ctx.state.resting = true := by rw [hctx, hall]
      refine ⟨_, exec_setModeConfig h t o hv hp (setModeConfig_changes (s := x) hm hrest o), goConfig_rest x o, fun i => ?_⟩
      obtain ⟨horn, hs⟩ := (goConfig_settled x o).2 i
      have hrecord : (x.stand i).record = (s.stand i).record := by rw [stand_taking]
      rw [hs, ← hrecord]
      refine ⟨?_, settledCtx_released (hrest i)⟩
      rw [released, stand_taking]
end

section
/-! SUPPORT. Verbs that name no request, and frames addressed to a group or to 255 (O8). -/

namespace Sys2Proof

namespace Machine

/-- The verb values assigned to nothing are those outside the table of section 10.1 (R159). -/
theorem unassignedVerb_iff (v : Byte) : unassignedVerb v = true ↔ v ∉ ([0x10, 0x11, 0x20, 0x30, 0x31, 0x40, 0x41, 0x42, 0x43,
    0x44, 0x45, 0x50, 0x51, 0x52, 0x53, 0x54, 0x55, 0x56, 0x60, 0x61, 0x62, 0x63, 0x64, 0x65, 0x66, 0x70] : List Byte) := by
  simp only [unassignedVerb, requestVerb, partVerb, arrivalVerb, verbDriveOrder, verbSpliceNotice, verbStandReport, verbReply,
    verbLineSample, verbLineHold, Bool.and_eq_true, Bool.not_eq_true', Bool.or_eq_false_iff, Bool.and_eq_false_iff,
    decide_eq_false_iff_not, beq_eq_false_iff_ne, List.mem_cons, List.not_mem_nil, or_false, not_or, ne_eq,
    ← BitVec.toNat_inj, BitVec.reduceToNat]
  omega

theorem partVerb_iff (v : Byte) : partVerb v = true ↔ v ∈ ([0x20, 0x30, 0x31, 0x70] : List Byte) := by
  simp [partVerb, verbDriveOrder, verbSpliceNotice, verbStandReport, verbReply, or_assoc]

namespace State

variable {s : State} {f : Frame} {t : Time}

/-! ### The taking of a frame without a slot -/

/-- The part when a frame has left the receive queue that gets no reply and refreshes no lock (R159, R160). -/
def dropping (s : State) (t : Time) : State := { s with clock := t, port := { s.port with rx := s.port.rx.tail } }

/-- A request addressed to a group or to 255: an ASK request is discarded, any other is applied without a reply (R160). -/
theorem exec_group (h : s.port.rx.head? = some f) (hg : 240 ≤ f.target.toNat) (hs : s.port.handlerSlot = false) {c : Instr}
    {takes : Frame → Bool} {ask : Bool} {body : Frame → State → Answer}
    (hc : exec c s = .next ((s.setClock t).handle takes ask body)) (ht : takes f = true) :
    exec c s = .next (if ask then s.dropping t else (body f (s.dropping t)).state) :=
  hc.trans <| congrArg Host.Outcome.next <|
    handle_group h (by simpa [Frame.individual] using hg) hs t takes ask body ht

/-- The same for a request whose answer is known. -/
theorem exec_group_answers (h : s.port.rx.head? = some f) (hg : 240 ≤ f.target.toNat) (hs : s.port.handlerSlot = false)
    {c : Instr} {takes : Frame → Bool} {body : Frame → State → Answer}
    (hc : exec c s = .next ((s.setClock t).handle takes false body)) (ht : takes f = true) {a : Answer}
    (hb : body f (s.dropping t) = a) : exec c s = .next a.state := by
  rw [exec_group h hg hs hc ht, hb]
  rfl

/-- A frame with a verb that the part itself sends is dropped, whomever it is addressed to (R159). -/
theorem exec_partVerbDiscarded (h : s.port.rx.head? = some f) (hv : partVerb f.verb = true)
    (hs : s.port.handlerSlot = false) (t : Time) : exec (.partVerbDiscarded t) s = .next (s.dropping t) := by
  obtain ⟨l, hl⟩ := List.head?_eq_some_iff.1 h
  have hslot : ¬ (s.setClock t).popFrame.port.handlerSlot = true := by
    show ¬ s.port.handlerSlot = true
    simp [hs]
  show Host.Outcome.next (s.setClock t).discardPartVerb = _
  unfold discardPartVerb
  rw [port_setClock, hl]
  simp only [hv, if_true, returnSlot, if_neg hslot]
  rfl

/-! ### The requests shown -/

theorem putGrade_free {g : Fin 32} {r : GradeRecord} (hr : gradeInRange r = true)
    (hfree : ∀ i, (s.stand i).ctx.state.splicing = false) :
    s.putGrade g r = grant { s with grades := s.grades.set g (some r) } := by
  have hunused : ¬ s.gradeInUse g = true := fun hu => by
    obtain ⟨i, hi, -⟩ := (gradeInUse_iff s g).1 hu
    rw [hfree i] at hi
    cases hi
  rw [putGrade, if_pos hr, if_neg hunused]

theorem setModeHold_in_run (hm : s.mode = .run) (o : List StandNo) : s.setModeHold o = ⟨s.goHold o, .accepted, [2]⟩ := by
  unfold setModeHold
  rw [hm]
  exact modeAnswer_eq (goHold_held s o).mode .accepted

/-- An ABORT for a stand before fire, once its code and stand are read (R82). -/
theorem answerAbort_beforeFire {i : StandNo} {more : List Byte} (hp : f.payload = BitVec.ofNat 8 (i.val + 1) :: 4 :: more)
    (h : (s.stand i).ctx.state.beforeFire = true) : answerAbort f s = grant (s.abort i .order) := by
  rw [answerAbort_eq hp, needLength_long (by rw [hp]; simp), needStand_named (by rw [hp]; rfl),
    abortOrder_of_beforeFire h]

end State

end Machine

end Sys2Proof
end

section
open Sys2Proof Sys2Proof.Machine Sys2Proof.Machine.State

/-- Settles O8: the verb decides whether a frame is a request, and a request to a group comes to its own effect on the part
that has dropped the frame. -/
theorem groupFramesAndUnnamedVerbs : Obligations.GroupFramesAndUnnamedVerbs := by
  intro s t f unassigned x
  have hunassigned : unassignedVerb f.verb = true ↔ unassigned := unassignedVerb_iff f.verb
  refine ⟨fun h hv => exec_answers h rfl (hunassigned.2 hv) rfl,
    fun h hv hs => exec_partVerbDiscarded h ((partVerb_iff f.verb).2 hv) hs t, fun h hg hs => ?_⟩
  have asked {c : Instr} {v : Byte} {body : Frame → State → Answer}
      (hc : exec c s = .next ((s.setClock t).handle (carries v) true body)) (hv : f.verb = v) : exec c s = .next x :=
    exec_group h hg hs hc (carries_of_verb hv)
  have dropped (hv : unassigned) : exec (.unknownVerb t) s = .next x :=
    exec_group_answers h hg hs rfl (hunassigned.2 hv) (a := refuse x .unknownVerb) rfl
  refine ⟨dropped, asked rfl, asked rfl, asked rfl, asked rfl, asked rfl, asked rfl, fun g hv hl hp hr hfree => ?_,
    fun i hv hp hfree => ?_, fun o hv hp hm => ?_, fun i more hv hp hb => ?_⟩
  · exact exec_group_answers h hg hs rfl (carries_of_verb hv)
      ((answerPutGrade_eq hl hp x).trans (putGrade_free (s := x) hr hfree))
  · exact exec_group_answers h hg hs rfl (carries_of_verb hv)
      ((answerTakeControl_named hp x).trans (takeControl_of_free (s := x) hfree f))
  · exact ⟨_, exec_group_answers h hg hs rfl (takesMode_code .hold hv hp)
      ((setMode_of_code (m := .hold) hp x _).trans (setModeHold_in_run (s := x) hm o)), goHold_held x o⟩
  · exact ⟨_, exec_group_answers h hg hs rfl (takesOrder_code hv hp) (answerAbort_beforeFire (s := x) hp hb),
      abort_spec x i .order⟩
end

section
/-! SUPPORT. A command of one stand is an operation of that stand, at the time that the command brings (O54). -/

namespace Sys2Proof

namespace Machine

namespace State

/-- A command that concerns one stand alone always completes; it sets the local clock and then changes that stand alone, with
the splice log and the transmit side of the port (R174). -/
theorem exec_own {c : Instr} {i : StandNo} (hc : ownStand c = some i) (s : State) :
    ∃ t u, exec c s = .next u ∧ OwnChange i (s.setClock t) u := by
  cases c with cases hc
  | pulseInputChange t _ ch high => exact ⟨t, _, rfl, inputChanges_own _ i ch high⟩
  | changeAccepted t _ ch first => exact ⟨t, _, rfl, changeHolds_own _ i ch first⟩
  | stoppedTimerExpiry t _ ch => exact ⟨t, _, rfl, channelStops_own _ i ch⟩
  | guardOpen t => exact ⟨t, _, rfl, guardOpens_own _ i⟩
  | guardSafe t => exact ⟨t, _, rfl, modOut_own _ i _⟩
  | missingTabExpiry t => exact ⟨t, _, rfl, missingTabEnds_own _ i⟩
  | pasterTimerExpiry t => exact ⟨t, _, rfl, pasterEnds_own _ i⟩
  | knifeTimerExpiry t => exact ⟨t, _, rfl, knifeEnds_own _ i⟩
  | confirmTimerExpiry t => exact ⟨t, _, rfl, confirmEnds_own _ i⟩
  | stoppingTimerExpiry t => exact ⟨t, _, rfl, stoppingEnds_own _ i⟩
  | pasteEndExpiry t => exact ⟨t, _, rfl, modOut_own _ i _⟩
  | knifeEndExpiry t => exact ⟨t, _, rfl, modOut_own _ i _⟩
  | brakeDelayExpiry t => exact ⟨t, _, rfl, modOut_own _ i _⟩
  | brakeHoldExpiry t => exact ⟨t, _, rfl, modOut_own _ i _⟩
  | hornHalfPeriod t => exact ⟨t, _, rfl, modOut_own _ i _⟩
  | prewarnPhase t => exact ⟨t, _, rfl, modOut_own _ i _⟩
  | lockExpiry t => exact ⟨t, _, rfl, lockEnds_own _ i⟩

end State

end Machine

end Sys2Proof
end

section
open Sys2Proof.Machine

/-- Settles O54: a command of one stand sets the clock, which is no part of what it must leave alone, and then changes its own
stand, the log and the transmit side. -/
theorem standsKeepApart : Obligations.StandsKeepApart := by
  intro c i s u hc hu
  obtain ⟨t, v, hv, hown⟩ := State.exec_own hc s
  obtain rfl : v = u := Host.Outcome.next.inj (hv.symm.trans hu)
  exact hown.afterClock
end

section
/-! SUPPORT. A step by what stands in the queue of waiting commands (O1). -/

namespace Sys2Proof

namespace Machine

/-- The command at the front leaves the queue and runs on the rest. -/
theorem step_of_waiting {s : State} {c : Instr} {rest : List Instr} (h : s.pending = c :: rest) :
    step s = exec c { s with pending := rest } := by
  rw [step, h]

theorem step_of_nothing_waiting {s : State} (h : s.pending = []) : step s = .next s := by
  rw [step, h]

end Machine

end Sys2Proof
end

section
open Sys2Proof Sys2Proof.Machine

/-- Settles O1, by the two forms of the queue. -/
theorem stepRunsFrontCommand : Obligations.StepRunsFrontCommand :=
  ⟨fun c rest s => step_of_waiting (s := { s with pending := c :: rest }) rfl, fun _ h => step_of_nothing_waiting h⟩
end

section
/-! SUPPORT. No operation of the part writes the queue of waiting commands: a sweep over the stands leaves it alone with all
else that is no stand's, and the rest of the operations are read one by one (O2). -/

namespace Sys2Proof

namespace Machine

namespace State

/-! ### Sweeps -/

@[simp] theorem pending_mapStands (s : State) (f : StandNo → Stand → Stand) : (s.mapStands f).pending = s.pending := by
  rw [mapStands_rest]

@[simp] theorem pending_mapTrackers (s : State) (f : SlotNo → Tracker → Tracker) :
    (s.mapTrackers f).pending = s.pending := by
  rw [mapTrackers_rest]

theorem pending_forStands (o : List StandNo) {f : StandNo → State → State} (hf : ∀ i x, OwnChange i x (f i x)) (s : State) :
    (forStands o f s).pending = s.pending :=
  forStands_keeps o f (fun u => u.pending = s.pending) (fun i x hx => (hf i x).pending.trans hx) s rfl

theorem pending_tellStands (s : State) (k : SlotNo) (o : List StandNo) {f : StandNo → State → State}
    (hf : ∀ i x, OwnChange i x (f i x)) : (s.tellStands k o f).pending = s.pending :=
  tellStands_keeps State.pending k o f (fun i x => (hf i x).pending) s

/-! ### Answers that change one stand at most -/

theorem lockedOrder_swept (code : Nat) (ok : State → Bool) {act : State → StandNo → Answer}
    (h : ∀ x i, OwnChange i x (act x i).state) (f : Frame) (s : State) : Swept s (lockedOrder code ok act f s).state :=
  orderSteps_state (.refl s) (needStand_state (.refl s) fun i => needLock_state (.refl s) (h s i).swept)

theorem answerAbort_swept (f : Frame) (s : State) : Swept s (answerAbort f s).state :=
  orderSteps_state (.refl s) (needStand_state (.refl s) fun i => (abortOrder_own s i).swept)

theorem answerAddReel_swept (f : Frame) (s : State) : Swept s (answerAddReel f s).state := by
  refine needLength_state (.refl s) (needStand_state (.refl s) fun i => needLock_state (.refl s) ?_)
  dsimp only
  repeat' split
  · exact .refl s
  · exact (addReel_own s i _).swept
  · exact .refl s

theorem answerDropReel_swept (f : Frame) (s : State) : Swept s (answerDropReel f s).state := by
  refine needLength_state (.refl s) ?_
  dsimp only
  repeat' split
  · exact .refl s
  · exact .refl s
  · exact needLock_state (.refl s) (dropReel_own s _ _).swept

theorem answerMarkReady_swept (f : Frame) (s : State) : Swept s (answerMarkReady f s).state :=
  needLength_state (.refl s) (needStand_state (.refl s) fun i => needLock_state (.refl s) (markReady_own s i _).swept)

theorem answerSetRunning_swept (f : Frame) (s : State) : Swept s (answerSetRunning f s).state := by
  refine needLength_state (.refl s) (needStand_state (.refl s) fun i => needLock_state (.refl s) ?_)
  repeat' split
  · exact (clearRunning_own s i).swept
  · exact .refl s
  · exact (setRunning_own s i _ _).swept

theorem answerTakeControl_swept (f : Frame) (s : State) : Swept s (answerTakeControl f s).state := by
  unfold answerTakeControl
  repeat' split
  · exact .refl s
  · exact .refl s
  · exact (takeControl_own s _ f).swept

theorem answerGiveControl_swept (f : Frame) (s : State) : Swept s (answerGiveControl f s).state := by
  unfold answerGiveControl
  repeat' split
  · exact .refl s
  · exact .refl s
  · exact (giveControl_own s _ f).swept

theorem answerClearInterlock_swept (f : Frame) (s : State) : Swept s (answerClearInterlock f s).state := by
  refine needLength_state (.refl s) ?_
  split
  · exact needStand_state (.refl s) fun i => (clearInterlock_own s i).swept
  · exact .refl s

theorem answerClearEvents_swept (f : Frame) (s : State) : Swept s (answerClearEvents f s).state := by
  refine needLength_state (.refl s) ?_
  split
  · exact needLength_state (.refl s) (needStand_state (.refl s) fun i => (clearMarks_own s i _).swept)
  · exact .refl s

/-! ### Answers that change a table, the mode or the whole part -/

theorem pending_answerPutGrade (f : Frame) (s : State) : (answerPutGrade f s).state.pending = s.pending := by
  refine needLength_state (P := fun u => u.pending = s.pending) rfl ?_
  unfold putGrade
  repeat' split
  all_goals rfl

theorem pending_replaceRecord (s : State) (i : StandNo) (r : StandRecord) :
    (s.replaceRecord i r).pending = s.pending := by
  unfold replaceRecord
  dsimp only
  repeat' split
  · rw [pending_mapTrackers, pending_modStand]
  · rw [(settle_own _ i).pending, pending_mapTrackers, pending_modStand]
  · rw [(settle_own _ i).pending, pending_modCtx, pending_mapTrackers, pending_modStand]

theorem pending_answerPutStand (f : Frame) (s : State) : (answerPutStand f s).state.pending = s.pending := by
  refine needLength_state (P := fun u => u.pending = s.pending) rfl
    (needStand_state (P := fun u => u.pending = s.pending) rfl fun i => ?_)
  unfold putStand
  repeat' split
  · rfl
  · exact pending_replaceRecord s i _
  · rfl
  · rfl

theorem pending_withLine (s : State) (l : LineSettings) : (s.withLine l).pending = s.pending := by
  rw [withLine_rest]

theorem pending_answerPutLine (f : Frame) (s : State) : (answerPutLine f s).state.pending = s.pending := by
  refine needLength_state (P := fun u => u.pending = s.pending) rfl ?_
  rw [putLine_eq]
  repeat' split
  · exact pending_withLine s _
  · rfl
  · rfl

theorem pending_answerSetGroups (f : Frame) (s : State) : (answerSetGroups f s).state.pending = s.pending := by
  refine needLength_state (P := fun u => u.pending = s.pending) rfl ?_
  unfold setGroups
  repeat' split
  all_goals rfl

theorem pending_goRun (s : State) (o : List StandNo) : (s.goRun o).pending = s.pending :=
  pending_forStands o (fun i x => settle_own x i) _

theorem pending_goHold (s : State) (o : List StandNo) : (s.goHold o).pending = s.pending :=
  pending_forStands o (fun i x => (abortBeforeFire_own x i .hold).trans (settle_own _ i)) _

theorem pending_goConfig (s : State) (o : List StandNo) : (s.goConfig o).pending = s.pending := by
  rw [goConfig_rest]

theorem pending_setModeRun (s : State) (o : List StandNo) : (s.setModeRun o).state.pending = s.pending := by
  unfold setModeRun
  repeat' split
  · exact pending_goRun s o
  · rfl
  · exact pending_goRun s o
  · rfl

theorem pending_setModeHold (s : State) (o : List StandNo) : (s.setModeHold o).state.pending = s.pending := by
  unfold setModeHold
  split
  · exact pending_goHold s o
  · rfl
  · rfl

theorem pending_setModeConfig (s : State) (o : List StandNo) : (s.setModeConfig o).state.pending = s.pending := by
  by_cases hm : s.mode = .config
  · rw [setModeConfig_in_config hm]
  · rw [setModeConfig_elsewhere hm]
    split
    · exact pending_goConfig s o
    · rfl

/-- A SET MODE leaves the queue alone when the change of mode does. -/
theorem pending_setMode {f : Frame} {m : Mode} {s : State} {k : Answer} (h : k.state.pending = s.pending) :
    (s.setMode f m k).state.pending = s.pending :=
  setMode_state (P := fun u => u.pending = s.pending) rfl h

theorem pending_restarted (s : State) : s.restarted.pending = s.pending := by
  rw [restarted_rest]

theorem pending_answerRestart (f : Frame) (s : State) : (answerRestart f s).state.pending = s.pending := by
  unfold answerRestart
  split
  · exact pending_restarted s
  · rfl

/-! ### The request handler -/

theorem pending_returnSlot (s : State) : s.returnSlot.pending = s.pending := by
  unfold returnSlot
  split
  · exact (offer_txOnly _).pending
  · rfl

theorem pending_takeFrame (s : State) (f : Frame) : (s.takeFrame f).pending = s.pending := by
  rw [takeFrame, refreshLocks, pending_mapStands, pending_modPort, popFrame, pending_modPort]

/-- A request row leaves the queue alone when its answer does. -/
theorem pending_handle (s : State) (t : Time) (takes : Frame → Bool) (ask : Bool) {body : Frame → State → Answer}
    (h : ∀ f x, (body f x).state.pending = x.pending) :
    ((s.setClock t).handle takes ask body).pending = s.pending := by
  have hpop (x : State) : x.popFrame.returnSlot.pending = x.pending := pending_returnSlot _
  unfold handle
  repeat' split
  · rfl
  · exact (h _ _).trans (pending_takeFrame _ _)
  · rfl
  · exact hpop _
  · exact (h _ _).trans (hpop _)
  · rfl

/-- A request row that only reads leaves the queue alone. -/
theorem pending_handle_of_reads (s : State) (t : Time) (takes : Frame → Bool) (ask : Bool)
    {body : Frame → State → Answer} (h : ∀ f x, (body f x).state = x) :
    ((s.setClock t).handle takes ask body).pending = s.pending :=
  pending_handle s t takes ask fun f x => congrArg State.pending (h f x)

/-- A request row whose answer changes stands alone, with the log and the transmit side, leaves the queue alone. -/
theorem pending_handle_of_swept (s : State) (t : Time) (takes : Frame → Bool) (ask : Bool)
    {body : Frame → State → Answer} (h : ∀ f x, Swept x (body f x).state) :
    ((s.setClock t).handle takes ask body).pending = s.pending :=
  pending_handle s t takes ask fun f x => (h f x).pending

theorem pending_discardPartVerb (s : State) : s.discardPartVerb.pending = s.pending := by
  unfold discardPartVerb
  repeat' split
  · rfl
  · exact pending_returnSlot _
  · rfl

/-! ### Trackers and conversions -/

theorem pending_coastingEnds (s : State) (k : SlotNo) (o : List StandNo) : (s.coastingEnds k o).pending = s.pending := by
  unfold coastingEnds
  dsimp only
  repeat' split
  · exact pending_tellStands _ k o fun i x => leaveFireSet_own x i
  · rfl
  · rfl

theorem pending_lostEnds (s : State) (k : SlotNo) (o : List StandNo) : (s.lostEnds k o).pending = s.pending := by
  have htold (x : State) := pending_tellStands x k o fun i y => (raise_own y i .trackLost).trans
    (abortBeforeFire_own _ i .trackLost)
  unfold lostEnds
  dsimp only
  split
  · split
    case h_1 | h_2 | h_3 => exact htold _
    all_goals rfl
  · rfl

theorem pending_windowEnds (s : State) (k : SlotNo) (o : List StandNo) : (s.windowEnds k o).pending = s.pending := by
  unfold windowEnds
  dsimp only
  repeat' split
  · exact pending_tellStands _ k o fun i x => raise_own x i _
  · rfl
  · rfl

theorem pending_convert (s : State) (code : BitVec 12) : (s.convert code).pending = s.pending := by
  unfold convert
  dsimp only
  split
  · exact (convertDancer_own _ _ code).pending
  · exact (convertSensor_own _ _ code).pending

/-! ### The port -/

theorem pending_arrivalEnds (s : State) (v : Byte) (p : List Byte) (c : Byte) {handOn : Header → State → State}
    (h : ∀ a x, (handOn a x).pending = x.pending) : (s.arrivalEnds v p c handOn).pending = s.pending := by
  unfold arrivalEnds
  repeat' split
  · exact h _ _
  all_goals rfl

theorem pending_handSample (p : List Byte) (o : List Matter) (a : Header) (s : State) :
    (handSample p o a s).pending = s.pending := by
  unfold handSample
  split
  · exact (takeSample_swept s p o).pending
  · rfl

theorem pending_handHold (o : List StandNo) (a : Header) (s : State) : (handHold o a s).pending = s.pending := by
  unfold handHold
  split
  · exact pending_goHold s o
  · rfl
  · rfl

theorem pending_entersStuck (s : State) (l : List Bool) (o : List StandNo) :
    (s.entersStuck l o).pending = s.pending := by
  unfold entersStuck
  dsimp only
  split
  · rfl
  · exact pending_forStands o (fun i x => abortBeforeFire_own x i _) _

theorem pending_losesContest (s : State) : s.losesContest.pending = s.pending := by
  unfold losesContest
  repeat' split
  · rfl
  · rfl
  · exact (entryLoses_txOnly _).pending

theorem pending_entryEnds (s : State) (r : TxOutcome) : (s.entryEnds r).pending = s.pending := by
  unfold entryEnds
  split
  · rfl
  · exact (offer_txOnly _).pending.trans (handOutcome_swept s _ r).pending

theorem pending_frameEnds (s : State) (e : LineEnd) : (s.frameEnds e).pending = s.pending := by
  unfold frameEnds
  repeat' split
  · rfl
  · exact pending_entryEnds _ _
  · rfl

section

variable (s : State)

/-! The other events of the port change the port alone. -/

theorem pending_requestEnds (p : List Byte) (c : Byte) : (s.requestEnds p c).pending = s.pending := by
  unfold requestEnds
  repeat' split
  all_goals rfl

theorem pending_headerEnds (h : Header) (c : Byte) : (s.headerEnds h c).pending = s.pending := by
  unfold headerEnds
  split
  all_goals rfl

theorem pending_abandonFrame (l : List Bool) : (s.abandonFrame l).pending = s.pending := by
  unfold abandonFrame
  dsimp only
  split
  all_goals rfl

theorem pending_becomesIdle (l : List Bool) : (s.becomesIdle l).pending = s.pending := by
  unfold becomesIdle
  dsimp only
  split
  all_goals rfl

theorem pending_startsReading : s.startsReading.pending = s.pending := by
  unfold startsReading
  split
  all_goals rfl

theorem pending_beginsFrame (r : List Contestant) : (s.beginsFrame r).pending = s.pending := by
  unfold beginsFrame
  repeat' split
  all_goals rfl

end

/-! ### Every command -/

/-- A command of one stand leaves the queue alone, as it leaves all that is not that stand's (R174). -/
theorem exec_own_keepsPending {c : Instr} {i : StandNo} (hc : ownStand c = some i) (s : State) :
    ∃ u, exec c s = .next u ∧ u.pending = s.pending := by
  obtain ⟨t, u, hu, hown⟩ := exec_own hc s
  exact ⟨u, hu, hown.pending⟩

/-- Every command answers a next state with the queue as it was. -/
theorem exec_keepsPending (c : Instr) (s : State) : ∃ u, exec c s = .next u ∧ u.pending = s.pending := by
  cases c with
  | powerOn pins => exact ⟨_, rfl, rfl⟩
  | askStatus t => exact ⟨_, rfl, pending_handle_of_reads s t _ _ fun _ _ => rfl⟩
  | askStand t => exact ⟨_, rfl, pending_handle_of_reads s t _ _ answerAskStand_state⟩
  | askGrade t => exact ⟨_, rfl, pending_handle_of_reads s t _ _ answerAskGrade_state⟩
  | askQueue t => exact ⟨_, rfl, pending_handle_of_reads s t _ _ answerAskQueue_state⟩
  | askLog t => exact ⟨_, rfl, pending_handle_of_reads s t _ _ answerAskLog_state⟩
  | askLine t => exact ⟨_, rfl, pending_handle_of_reads s t _ _ fun _ _ => rfl⟩
  | putGrade t => exact ⟨_, rfl, pending_handle s t _ _ pending_answerPutGrade⟩
  | putStand t => exact ⟨_, rfl, pending_handle s t _ _ pending_answerPutStand⟩
  | putLine t => exact ⟨_, rfl, pending_handle s t _ _ pending_answerPutLine⟩
  | setGroups t => exact ⟨_, rfl, pending_handle s t _ _ pending_answerSetGroups⟩
  | addReel t => exact ⟨_, rfl, pending_handle_of_swept s t _ _ answerAddReel_swept⟩
  | dropReel t => exact ⟨_, rfl, pending_handle_of_swept s t _ _ answerDropReel_swept⟩
  | markReady t => exact ⟨_, rfl, pending_handle_of_swept s t _ _ answerMarkReady_swept⟩
  | setRunning t => exact ⟨_, rfl, pending_handle_of_swept s t _ _ answerSetRunning_swept⟩
  | setModeRun t o => exact ⟨_, rfl, pending_handle s t _ _ fun _ x => pending_setMode (pending_setModeRun x o)⟩
  | setModeHold t o => exact ⟨_, rfl, pending_handle s t _ _ fun _ x => pending_setMode (pending_setModeHold x o)⟩
  | setModeConfig t o => exact ⟨_, rfl, pending_handle s t _ _ fun _ x => pending_setMode (pending_setModeConfig x o)⟩
  | standOrderAutoOn t => exact ⟨_, rfl, pending_handle_of_swept s t _ _ (lockedOrder_swept 1 _ autoOn_own)⟩
  | standOrderAutoOff t => exact ⟨_, rfl, pending_handle_of_swept s t _ _ (lockedOrder_swept 2 _ autoOff_own)⟩
  | standOrderSpliceNow t => exact ⟨_, rfl, pending_handle_of_swept s t _ _ (lockedOrder_swept 3 _ spliceNow_own)⟩
  | standOrderAbort t => exact ⟨_, rfl, pending_handle_of_swept s t _ _ answerAbort_swept⟩
  | standOrderManualTrackOn t => exact ⟨_, rfl, pending_handle_of_swept s t _ _ (lockedOrder_swept 5 _ manualOn_own)⟩
  | standOrderManualTrackOff t => exact ⟨_, rfl, pending_handle_of_swept s t _ _ (lockedOrder_swept 6 _ manualOff_own)⟩
  | takeControl t => exact ⟨_, rfl, pending_handle_of_swept s t _ _ answerTakeControl_swept⟩
  | giveControl t => exact ⟨_, rfl, pending_handle_of_swept s t _ _ answerGiveControl_swept⟩
  | clearLatchInterlock t => exact ⟨_, rfl, pending_handle_of_swept s t _ _ answerClearInterlock_swept⟩
  | clearLatchEvents t => exact ⟨_, rfl, pending_handle_of_swept s t _ _ answerClearEvents_swept⟩
  | restart t => exact ⟨_, rfl, pending_handle s t _ _ pending_answerRestart⟩
  | unknownVerb t => exact ⟨_, rfl, pending_handle_of_reads s t _ _ fun _ _ => rfl⟩
  | partVerbDiscarded t => exact ⟨_, rfl, pending_discardPartVerb (s.setClock t)⟩
  | lineHold t p k o => exact ⟨_, rfl, pending_arrivalEnds (s.setClock t) _ p k (pending_handHold o)⟩
  | lineSample t p k o => exact ⟨_, rfl, pending_arrivalEnds (s.setClock t) _ p k (pending_handSample p o)⟩
  | coastingExpiry t k o => exact ⟨_, rfl, pending_coastingEnds (s.setClock t) k o⟩
  | lostExpiry t k o => exact ⟨_, rfl, pending_lostEnds (s.setClock t) k o⟩
  | windowClose t k o => exact ⟨_, rfl, pending_windowEnds (s.setClock t) k o⟩
  | conversionCompletion t code => exact ⟨_, rfl, pending_convert (s.setClock t) code⟩
  | requestFrame t p k => exact ⟨_, rfl, pending_requestEnds (s.setClock t) p k⟩
  | transmitBegin m => exact ⟨_, rfl, pending_beginsFrame (s.setClock m.t) m.rivals⟩
  | lostArbitration t => exact ⟨_, rfl, pending_losesContest (s.setClock t)⟩
  | transmitOutcome t e => exact ⟨_, rfl, pending_frameEnds (s.setClock t) e⟩
  | busIdle m => exact ⟨_, rfl, pending_becomesIdle (s.setClock m.t) m.line⟩
  | stuck m o => exact ⟨_, rfl, pending_entersStuck (s.setClock m.t) m.line o⟩
  | startMarkRead t => exact ⟨_, rfl, pending_startsReading (s.setClock t)⟩
  | headerCheckEnd t h k => exact ⟨_, rfl, pending_headerEnds (s.setClock t) h k⟩
  | receptionAbandoned m => exact ⟨_, rfl, pending_abandonFrame (s.setClock m.t) m.line⟩
  | _ => exact exec_own_keepsPending rfl s

end State

end Machine

end Sys2Proof
end

section
open Sys2Proof.Machine

/-- Settles O2: the rows of one stand by what a stand's operation leaves alone, the other rows one by one. -/
theorem everyCommandCompletes : Obligations.EveryCommandCompletes := State.exec_keepsPending
end
